-- ==== Sys2Proof/Word.lean ====
section
/-!
DEFINITION. The words of the block: bytes of the bus, 32-bit linear addresses, 24-bit wire addresses (R11, R12, R56).
-/

namespace Sys2Proof

/-- A byte on either side of `transfer` (R56). -/
abbrev Byte := BitVec 8

/-- A linear address, "uint32 logical byte offset" (R51). -/
abbrev Addr := BitVec 32

/-- A wire address: the 24 bits actually sent (R52). -/
abbrev Wire := BitVec 24

end Sys2Proof
end

