-- ==== Sys2Proof/Config.lean ====
section
/-!
DEFINITION. The parameters of the block (R9) as a record, and the free values. Their default values and their legality are
in Machine/Parameters.lean.
What R9 grounds in the source alone is a constant; what it grounds in a decision or in general knowledge is a field of
`Config`, so that "every rule names the parameter" (R87) and every statement holds for every value of it (log 2, log 3).
-/

namespace Sys2Proof

/-- `N_VARIANTS` (R9, R2). -/
abbrev Config.nVariants : Nat := 7
/-- `N_DUMMY_READ` (R9, R83). -/
abbrev Config.nDummyRead : Nat := 4
/-- `BLOCK_PAGES` (R9, R146). -/
abbrev Config.blockPages : Nat := 8
/-- `DETECT_ATTEMPTS` (R9, R172). -/
abbrev Config.detectAttempts : Nat := 10
/-- `ID_BYTES` (R9, R187). -/
abbrev Config.idBytes : Nat := 8

/-- One row of the geometry table, "ChipGeometry" (R15, R21): the shift count, which is the width of the offset field
(90_conflicts.md C2), the page size in bytes, and the number of pages. -/
structure Geometry where
  pageBitWidth : Nat
  pageByteSize : Nat
  totalPages   : Nat
  deriving DecidableEq, Repr, Inhabited

/-- The parameters of R9 that a model's user may set. -/
structure Config where
  /-- `GEOM_TABLE` (R24), row `i` at place `i`. -/
  geomTable       : List Geometry
  /-- `OPC_STATUS_READ`. -/
  opcStatusRead   : Byte
  /-- `OPC_READ_ARRAY`. -/
  opcReadArray    : Byte
  /-- `OPC_BUF_WRITE(buf)`, the enumerated table of R89, buffer `b` at place `b`. -/
  opcBufWrite     : List Byte
  /-- `OPC_PAGE_TO_BUF(buf)`. -/
  opcPageToBuf    : List Byte
  /-- `OPC_BUF_TO_PAGE(buf)`. -/
  opcBufToPage    : List Byte
  /-- `OPC_BLOCK_ERASE`. -/
  opcBlockErase   : Byte
  /-- `N_BUFFERS` (R53). -/
  nBuffers        : Nat
  /-- `SESSION_BUF` (R171). -/
  sessionBuf      : Nat
  /-- `READY_BIT` (R33). -/
  readyBit        : Nat
  /-- `FILL_BYTE` (R83). -/
  fillByte        : Byte
  /-- `ERASED_WIRE` (R64). -/
  erasedWire      : Byte
  /-- `BOUNDS_CHECK` (R119). -/
  boundsCheck     : Bool
  /-- `POLL_BUDGET`, `none` standing for `INF` (R131). -/
  pollBudget      : Option Nat
  /-- `ERASE_MARGIN_PAGES` (R185). -/
  eraseMarginPages : Nat
  deriving DecidableEq, Repr

/-- FREE VALUE (R4, U15): the chip's answer to the transfer at counter value `k`, where the state's tape of answers gives
none (log 5). No body: nothing can be proved of a value of it. -/
opaque Config.chipAnswer : Nat → Byte

/-- FREE VALUE (U14): what byte `j` of the chip stub's buffers holds after the power cycle at counter value `k`, "the buffers are unspecified"
(R39, R232; log 23). -/
opaque Config.powerUpByte : Nat → Nat → Byte

end Sys2Proof
end

