-- ==== Sys2Proof/Machine/Parameters.lean ====
section
/-!
DEFINITION. The default values of the parameters (R9, R24), and which values a model accepts (R25, D4).
-/

namespace Sys2Proof

/-- The five constraints of R25 on a table row. -/
def Geometry.legal (g : Geometry) : Bool :=
  decide (0 < g.pageByteSize)
    && decide (g.pageByteSize ≤ 2 ^ g.pageBitWidth)
    && decide (g.totalPages * 2 ^ g.pageBitWidth ≤ 2 ^ 24)
    && decide (g.totalPages % Config.blockPages = 0)
    && decide (1 ≤ g.totalPages)

/-- The default table of R24. PRESUMED by the spec itself but for the row (264, 2048): log 3. -/
def Geometry.defaultTable : List Geometry :=
  [⟨9, 264, 512⟩, ⟨9, 264, 1024⟩, ⟨9, 264, 2048⟩, ⟨9, 264, 4096⟩, ⟨10, 528, 4096⟩, ⟨10, 528, 8192⟩, ⟨11, 1056, 8192⟩]

/-- The row of the AT45DB041 (R24, index 2). -/
def Geometry.at45db041 : Geometry := ⟨9, 264, 2048⟩

/-- The defaults of R9. `POLL_BUDGET` is OPEN in R9 (D7): DESIGN CHOICE 3, the value of the spec's own vectors, log 2. -/
def Config.default : Config where
  geomTable := Geometry.defaultTable
  opcStatusRead := 0xD7
  opcReadArray := 0xE8
  opcBufWrite := [0x84, 0x87]
  opcPageToBuf := [0x53, 0x55]
  opcBufToPage := [0x83, 0x86]
  opcBlockErase := 0x50
  nBuffers := 2
  sessionBuf := 0
  readyBit := 7
  fillByte := 0x00
  erasedWire := 0xFF
  boundsCheck := true
  pollBudget := some 3
  eraseMarginPages := 1

/-- The parameter values a model accepts: a table of 7 rows that meet R25 ("A model refuses a table that does not"),
`POLL_BUDGET` at least 1 or `INF`, `READY_BIT` in 0..7, an opcode for every buffer index in `[0, N_BUFFERS)`, `SESSION_BUF` 0 or
1, whether or not there is such a buffer (R9; log 8). -/
def Config.legal (c : Config) : Bool :=
  decide (c.geomTable.length = Config.nVariants)
    && c.geomTable.all Geometry.legal
    && decide (c.pollBudget ≠ some 0)
    && decide (c.readyBit < 8)
    && decide (c.nBuffers ≤ c.opcBufWrite.length)
    && decide (c.nBuffers ≤ c.opcPageToBuf.length)
    && decide (c.nBuffers ≤ c.opcBufToPage.length)
    && decide (c.sessionBuf < 2)

end Sys2Proof
end

