-- ==== Sys2Proof/Machine/Operands.lean ====
section
/-!
DEFINITION. Every operand form of the commands: the pure functions of the address translator (R111 to R118), the three
ways a command names a place (R164), the range conditions (R119), and the inversion of data bytes (R62).
In this file `g.pageByteSize` is the spec's S, `g.pageBitWidth` its W, `g.totalPages` its T.
-/

namespace Sys2Proof.Machine

/-- `pageOf(addr) = addr div pageByteSize` (R111). -/
def pageOf (g : Geometry) (a : Nat) : Nat := a / g.pageByteSize

/-- `offsetOf(addr) = addr mod pageByteSize` (R112). -/
def offsetOf (g : Geometry) (a : Nat) : Nat := a % g.pageByteSize

/-- `LINEAROF p, o = p * S + o` (R113). -/
def linearOf (g : Geometry) (p o : Nat) : Nat := p * g.pageByteSize + o

/-- The packed address, computed without loss: `(page << pageBitWidth) | offsetInPage` (R115). -/
def packed (g : Geometry) (p o : Nat) : Nat := (p <<< g.pageBitWidth) ||| o

/-- The wire address: the low 24 bits of the packed one (R116). -/
def wireOf (g : Geometry) (p o : Nat) : Wire := BitVec.ofNat 24 (packed g p o)

/-- Byte `b2` of R117: `w[23:16]`. -/
def wireHigh (w : Wire) : Byte := w.extractLsb' 16 8
/-- Byte `b1` of R117: `w[15:8]`. -/
def wireMid (w : Wire) : Byte := w.extractLsb' 8 8
/-- Byte `b0` of R117: `w[7:0]`. -/
def wireLow (w : Wire) : Byte := w.extractLsb' 0 8

/-- The three address bytes in the order they are sent, most significant first (R55, R117). -/
def wireBytes (w : Wire) : List Byte := [wireHigh w, wireMid w, wireLow w]

/-- Addressing mode "linear" (R164): the wire address of a linear address, the path of `XLATE` (R118). -/
def wireOfLinear (g : Geometry) (a : Addr) : Wire := wireOf g (pageOf g a.toNat) (offsetOf g a.toNat)

/-- Addressing mode "page" (R164). -/
def wireOfPage (g : Geometry) (p : Nat) : Wire := wireOf g p 0

/-- Addressing mode "page" from a block index: page `8 * i` (R146, R164). -/
def wireOfBlock (g : Geometry) (i : Nat) : Wire := wireOf g (Config.blockPages * i) 0

/-- Addressing mode "buffer offset" (R164). -/
def wireOfBuffer (g : Geometry) (o : Nat) : Wire := wireOf g 0 o

/-- `T * S`, the number of bytes of the `LINEAR` space (R51). -/
def capacity (g : Geometry) : Nat := g.totalPages * g.pageByteSize

/-- Range condition of `READ_ARRAY` (R119, R141): `a < T*S and a + n <= T*S`, in naturals. -/
def linearRunInRange (g : Geometry) (a : Addr) (n : Nat) : Bool :=
  decide (a.toNat < capacity g) && decide (a.toNat + n ≤ capacity g)

/-- Range condition of `BUF_WRITE` (R119, R143): `o < S and o + n <= S`. -/
def bufferRunInRange (g : Geometry) (o n : Nat) : Bool :=
  decide (o < g.pageByteSize) && decide (o + n ≤ g.pageByteSize)

/-- Range condition of a page operand (R119, R144): `p < T`. -/
def pageInRange (g : Geometry) (p : Nat) : Bool := decide (p < g.totalPages)

/-- Range condition of a block index (R119, R146): `i < T div 8`. -/
def blockInRange (g : Geometry) (i : Nat) : Bool := decide (i < g.totalPages / Config.blockPages)

/-- The inversion of one data byte, `~b` (R12, R62). -/
def invert (b : Byte) : Byte := ~~~b

end Sys2Proof.Machine
end

