-- ==== Sys2Proof/Syntax.lean ====
section
/-!
DEFINITION. The closed command list of the block (R92), one constructor per row of the opcode table: the three commands
with a buffer operand have one row per buffer index (R89). Operand types as in R92.
-/

namespace Sys2Proof

/-- The commands. `a` linear address, `p` page, `o` offset, `i` block index, `d` density index, `n` length, `w` wire
address, `bytes` the client's bytes. -/
inductive Instr where
  /-- `STATUS_READ` (R140). -/
  | statusRead
  /-- `READ_ARRAY a, n` (R141). -/
  | readArray (a : Addr) (n : Nat)
  /-- `BUF_WRITE 0, o, bytes` (R143). -/
  | bufWriteBuf0 (o : Nat) (bytes : List Byte)
  /-- `BUF_WRITE 1, o, bytes` (R143). -/
  | bufWriteBuf1 (o : Nat) (bytes : List Byte)
  /-- `PAGE_TO_BUF 0, p` (R144). -/
  | pageToBufBuf0 (p : Nat)
  /-- `PAGE_TO_BUF 1, p` (R144). -/
  | pageToBufBuf1 (p : Nat)
  /-- `BUF_TO_PAGE 0, p` (R145). -/
  | bufToPageBuf0 (p : Nat)
  /-- `BUF_TO_PAGE 1, p` (R145). -/
  | bufToPageBuf1 (p : Nat)
  /-- `BLOCK_ERASE i` (R146). -/
  | blockErase (i : Nat)
  /-- `PAGEOF a` (R111). -/
  | pageof (a : Addr)
  /-- `OFFSETOF a` (R112). -/
  | offsetof (a : Addr)
  /-- `LINEAROF p, o` (R113). -/
  | linearof (p o : Nat)
  /-- `PACK p, o` (R115, R116). -/
  | pack (p o : Nat)
  /-- `SPLIT3 w` (R117). -/
  | split3 (w : Wire)
  /-- `XLATE a` (R118). -/
  | xlate (a : Addr)
  /-- `COMMIT_GEOMETRY d` (R160). -/
  | commitGeometry (d : Nat)
  /-- `END` (R161). -/
  | endBlock
  deriving DecidableEq, Repr

end Sys2Proof
end

