-- ==== Sys2Proof/WellFormed.lean ====
section
/-!
DEFINITION. Which commands have operands inside the domains of R92, and which are determined by the bytes of their frame.
Both are questions about a command as written; the block itself accepts every command and answers an operand outside its
domain with a result code (R90, R130, R160).
-/

namespace Sys2Proof

/-- The operand domains of R92: `d` is 0..6; the other operands are naturals, or words their type bounds. -/
def Instr.wellFormed : Instr → Bool
  | .commitGeometry d => decide (d < Config.nVariants)
  | .statusRead => true
  | .readArray _ _ => true
  | .bufWriteBuf0 _ _ => true
  | .bufWriteBuf1 _ _ => true
  | .pageToBufBuf0 _ => true
  | .pageToBufBuf1 _ => true
  | .bufToPageBuf0 _ => true
  | .bufToPageBuf1 _ => true
  | .blockErase _ => true
  | .pageof _ => true
  | .offsetof _ => true
  | .linearof _ _ => true
  | .pack _ _ => true
  | .split3 _ => true
  | .xlate _ => true
  | .endBlock => true

/-- A page number the page field of the wire address holds (R85: `24 - W` bits). -/
def Geometry.pageFits (g : Geometry) (p : Nat) : Bool := decide (p < 2 ^ (24 - g.pageBitWidth))

/-- The command's frame determines it: it has a frame (the rows of format NONE have none, D2), and the 24 wire-address
bits hold its place without the truncation of R116 dropping any of it (R85, R120). -/
def Instr.encodable (g : Geometry) : Instr → Bool
  | .statusRead => true
  | .readArray a _ => g.pageFits (Machine.pageOf g a.toNat)
  | .bufWriteBuf0 o _ => decide (o < 2 ^ 24)
  | .bufWriteBuf1 o _ => decide (o < 2 ^ 24)
  | .pageToBufBuf0 p => g.pageFits p
  | .pageToBufBuf1 p => g.pageFits p
  | .bufToPageBuf0 p => g.pageFits p
  | .bufToPageBuf1 p => g.pageFits p
  | .blockErase i => g.pageFits (Config.blockPages * i)
  | .pageof _ => false
  | .offsetof _ => false
  | .linearof _ _ => false
  | .pack _ _ => false
  | .split3 _ => false
  | .xlate _ => false
  | .commitGeometry _ => false
  | .endBlock => false

end Sys2Proof
end

