-- ==== Sys2Proof/Decode.lean ====
section
/-!
DEFINITION. The opcode map (R88), the decoder of body frames and, after it, the encoder. "The block decodes nothing: it is an
encoder" (30_encoding.md): a command's words are the bytes its body frame sends, and the decoder reads such a frame back, as
the chip's side of the bus does. The frame holds a wire address, so decoding and encoding take the geometry (log 12).
-/

namespace Sys2Proof

open Machine

/-- The nine rows of the opcode map (R88): operation and buffer index. -/
inductive WireOp where
  | statusRead | readArray
  | bufWrite0 | bufWrite1
  | pageToBuf0 | pageToBuf1
  | bufToPage0 | bufToPage1
  | blockErase
  deriving DecidableEq, Repr

def WireOp.all : List WireOp :=
  [.statusRead, .readArray, .bufWrite0, .bufWrite1, .pageToBuf0, .pageToBuf1, .bufToPage0, .bufToPage1, .blockErase]

/-- The opcode of an entry of an enumerated table keyed by buffer index (R89); a buffer index at or above `N_BUFFERS` has no
entry. -/
def Config.bufOpcode (c : Config) (table : List Byte) (buf : Nat) : Option Byte :=
  if buf < c.nBuffers then table[buf]? else none

/-- The opcode column of R88. -/
def WireOp.opcode (c : Config) : WireOp → Option Byte
  | .statusRead => some c.opcStatusRead
  | .readArray => some c.opcReadArray
  | .bufWrite0 => c.bufOpcode c.opcBufWrite 0
  | .bufWrite1 => c.bufOpcode c.opcBufWrite 1
  | .pageToBuf0 => c.bufOpcode c.opcPageToBuf 0
  | .pageToBuf1 => c.bufOpcode c.opcPageToBuf 1
  | .bufToPage0 => c.bufOpcode c.opcBufToPage 0
  | .bufToPage1 => c.bufOpcode c.opcBufToPage 1
  | .blockErase => some c.opcBlockErase

/-- The nine opcodes exist and no two are equal, so that an opcode "alone selects the chip operation" (R87). -/
def Config.opcodesDistinct (c : Config) : Bool :=
  WireOp.all.all fun x => (x.opcode c).isSome && WireOp.all.all fun y => decide (x = y) || decide (x.opcode c ≠ y.opcode c)

/-- The row an opcode byte selects. -/
def WireOp.ofOpcode (c : Config) (b : Byte) : Option WireOp :=
  WireOp.all.find? fun op => decide (op.opcode c = some b)

/-- Bytes of the header: opcode, address bytes, dummy bytes (R80 to R84); for format S the whole frame (R81). -/
def WireOp.headerLength : WireOp → Nat
  | .statusRead => 2
  | .readArray => 8
  | .bufWrite0 => 4
  | .bufWrite1 => 4
  | .pageToBuf0 => 4
  | .pageToBuf1 => 4
  | .bufToPage0 => 4
  | .bufToPage1 => 4
  | .blockErase => 4

/-- Why a byte sequence is no frame of the block. -/
inductive DecodeError where
  /-- A frame has at least the opcode (R80). -/
  | emptyFrame
  /-- The opcode is in no row of R88. -/
  | unknownOpcode (b : Byte)
  /-- The frame ends inside its header. -/
  | truncatedHeader
  /-- A dummy or receive slot does not carry `FILL_BYTE` (R81, R83). -/
  | notFill
  /-- A frame of format A or S goes on after its last byte. -/
  | trailingBytes
  /-- The offset field of a fetch, program or erase is not 0 (R144 to R146). -/
  | nonzeroOffset
  /-- The offset field of a read names no byte of `LINEAR` (R52). -/
  | offsetOutsidePage
  /-- The page of an erase is no multiple of 8 (R146). -/
  | pageNotBlockAligned
  deriving DecidableEq, Repr

/-- The wire address of the three address bytes, most significant first (R55). -/
def wireOfBytes (b2 b1 b0 : Byte) : Wire := b2 ++ b1 ++ b0

/-- The page field of a wire address (R85). -/
def pageField (g : Geometry) (w : Wire) : Nat := w.toNat / 2 ^ g.pageBitWidth

/-- The offset field of a wire address (R85). -/
def offsetField (g : Geometry) (w : Wire) : Nat := w.toNat % 2 ^ g.pageBitWidth

/-- A frame of format A (R82) whose offset field is 0. -/
def decodePage (g : Geometry) (w : Wire) (tail : List Byte) (f : Nat → Except DecodeError Instr) : Except DecodeError Instr :=
  if tail ≠ [] then .error .trailingBytes
  else if offsetField g w ≠ 0 then .error .nonzeroOffset
  else f (pageField g w)

/-- The operands after the opcode and the three address bytes. -/
def decodeAddressed (c : Config) (g : Geometry) (op : WireOp) (w : Wire) (tail : List Byte) : Except DecodeError Instr :=
  match op with
  | .statusRead => .error .trailingBytes
  | .readArray =>
    if tail.length < Config.nDummyRead then .error .truncatedHeader
    else if tail.any (· != c.fillByte) then .error .notFill
    else if g.pageByteSize ≤ offsetField g w then .error .offsetOutsidePage
    else .ok (.readArray (BitVec.ofNat 32 (linearOf g (pageField g w) (offsetField g w))) (tail.length - Config.nDummyRead))
  | .bufWrite0 => .ok (.bufWriteBuf0 w.toNat (tail.map invert))
  | .bufWrite1 => .ok (.bufWriteBuf1 w.toNat (tail.map invert))
  | .pageToBuf0 => decodePage g w tail fun p => .ok (.pageToBufBuf0 p)
  | .pageToBuf1 => decodePage g w tail fun p => .ok (.pageToBufBuf1 p)
  | .bufToPage0 => decodePage g w tail fun p => .ok (.bufToPageBuf0 p)
  | .bufToPage1 => decodePage g w tail fun p => .ok (.bufToPageBuf1 p)
  | .blockErase => decodePage g w tail fun p =>
      if p % Config.blockPages = 0 then .ok (.blockErase (p / Config.blockPages)) else .error .pageNotBlockAligned

/-- The command whose body frame sends exactly these bytes (formats R81 to R84). -/
def decode (c : Config) (g : Geometry) (bytes : List Byte) : Except DecodeError Instr :=
  match bytes with
  | [] => .error .emptyFrame
  | opc :: rest =>
    match WireOp.ofOpcode c opc with
    | none => .error (.unknownOpcode opc)
    | some .statusRead =>
      match rest with
      | [] => .error .truncatedHeader
      | b :: more => if b ≠ c.fillByte then .error .notFill else if more ≠ [] then .error .trailingBytes else .ok .statusRead
    | some op =>
      match rest with
      | b2 :: b1 :: b0 :: tail => decodeAddressed c g op (wireOfBytes b2 b1 b0) tail
      | _ => .error .truncatedHeader

/-! ## The encoder -/

/-- A frame from its opcode, address, dummy bytes and payload (R80). -/
def frameBytes (c : Config) (opc : Option Byte) (wire : Option Wire) (ndummy : Nat) (tx : List Byte) (nrx : Nat) : List Byte :=
  match opc with
  | none => []
  | some b =>
    [b] ++ (match wire with | none => [] | some w => wireBytes w) ++ List.replicate ndummy c.fillByte ++ tx
      ++ List.replicate nrx c.fillByte

/-- The bytes a command's body frame sends, in order (R81 to R84, R88); none for a command that performs no bus event. -/
def encode (c : Config) (g : Geometry) : Instr → List Byte
  | .statusRead => frameBytes c (WireOp.statusRead.opcode c) none 0 [] 1
  | .readArray a n => frameBytes c (WireOp.readArray.opcode c) (some (wireOfLinear g a)) Config.nDummyRead [] n
  | .bufWriteBuf0 o bytes => frameBytes c (WireOp.bufWrite0.opcode c) (some (wireOfBuffer g o)) 0 (bytes.map invert) 0
  | .bufWriteBuf1 o bytes => frameBytes c (WireOp.bufWrite1.opcode c) (some (wireOfBuffer g o)) 0 (bytes.map invert) 0
  | .pageToBufBuf0 p => frameBytes c (WireOp.pageToBuf0.opcode c) (some (wireOfPage g p)) 0 [] 0
  | .pageToBufBuf1 p => frameBytes c (WireOp.pageToBuf1.opcode c) (some (wireOfPage g p)) 0 [] 0
  | .bufToPageBuf0 p => frameBytes c (WireOp.bufToPage0.opcode c) (some (wireOfPage g p)) 0 [] 0
  | .bufToPageBuf1 p => frameBytes c (WireOp.bufToPage1.opcode c) (some (wireOfPage g p)) 0 [] 0
  | .blockErase i => frameBytes c (WireOp.blockErase.opcode c) (some (wireOfBlock g i)) 0 [] 0
  | .pageof _ => []
  | .offsetof _ => []
  | .linearof _ _ => []
  | .pack _ _ => []
  | .split3 _ => []
  | .xlate _ => []
  | .commitGeometry _ => []
  | .endBlock => []

/-- The length of a command's frame in transfers (R91); 0 where it has none. -/
def Instr.frameLength : Instr → Nat
  | .statusRead => 2
  | .readArray _ n => 8 + n
  | .bufWriteBuf0 _ bytes => 4 + bytes.length
  | .bufWriteBuf1 _ bytes => 4 + bytes.length
  | .pageToBufBuf0 _ => 4
  | .pageToBufBuf1 _ => 4
  | .bufToPageBuf0 _ => 4
  | .bufToPageBuf1 _ => 4
  | .blockErase _ => 4
  | .pageof _ => 0
  | .offsetof _ => 0
  | .linearof _ _ => 0
  | .pack _ _ => 0
  | .split3 _ => 0
  | .xlate _ => 0
  | .commitGeometry _ => 0
  | .endBlock => 0

/-! ## The header word of format A (R82) -/

/-- "As a 32-bit header word, bits `[31:24]` opcode, bits `[23:0]` wire address" (R82). -/
def headerWord (opc : Byte) (w : Wire) : BitVec 32 := opc ++ w

/-- The four transfers of a header word: opcode, `wire[23:16]`, `wire[15:8]`, `wire[7:0]` (R82). -/
def headerBytes (word : BitVec 32) : List Byte :=
  [word.extractLsb' 24 8, word.extractLsb' 16 8, word.extractLsb' 8 8, word.extractLsb' 0 8]

/-- The command whose frame is the four bytes of this header word. -/
def decodeHeaderWord (c : Config) (g : Geometry) (word : BitVec 32) : Except DecodeError Instr := decode c g (headerBytes word)

/-! ## Words numbered as the opcode table numbers them

Here bit 0 is the least significant bit of the byte transferred first, so that the opcode is bits 7..0; R82's header word has
it in bits 31..24 (log 12).
-/

/-- `n` bytes of a number, the least significant first: the first transferred byte is bits 7..0. -/
def bytesOfNat : Nat → Nat → List Byte
  | 0, _ => []
  | n + 1, w => BitVec.ofNat 8 w :: bytesOfNat n (w / 256)

/-- A row's word laid out as it crosses the bus, with zeros up to the end of its header. -/
def layOut (nbits w : Nat) : List Byte :=
  let bytes := bytesOfNat (nbits / 8) w
  match WireOp.ofOpcode Config.default (BitVec.ofNat 8 w) with
  | none => bytes
  | some op => bytes ++ List.replicate (op.headerLength - bytes.length) 0

/-- The command the decoder reads from a word of the opcode table, with the default parameters and the AT45DB041 geometry
(log 12). -/
def decodeTableWord (nbits w : Nat) : Option Instr :=
  match decode Config.default Geometry.at45db041 (layOut nbits w) with
  | .ok i => some i
  | .error _ => none

end Sys2Proof
end

