-- ==== Sys2Proof/Machine/State.lean ====
section
/-!
DEFINITION. The state: the block's registers (10_state.md), the bus trace (R14), the client (R36, 43_client_macros.md), the
inputs (reset, the chip's answers), and the optional chip stub (R192). Plain data throughout. INVENTORY.md lists it line by
line.
-/

namespace Sys2Proof.Machine

/-- An event of the bus trace (R14). -/
inductive BusEvent where
  | sel
  | unsel
  | xfer (tx rx : Byte)
  deriving DecidableEq, Repr

/-- The result codes (R200). -/
inductive Result where
  | ok | notCommitted | outOfRange | busTimeout | ended | alreadyCommitted | badOperand
  deriving DecidableEq, Repr

/-- What a response carries (R31): bytes (none of them where the spec says "empty"), a natural, or three bytes. -/
inductive RespData where
  | bytes (l : List Byte)
  | nat (n : Nat)
  | triple (b2 b1 b0 : Byte)
  deriving DecidableEq, Repr

/-- `RESP` (R31). -/
structure Resp where
  result : Result
  data   : RespData
  deriving DecidableEq, Repr

/-- `GEOM` (R21): the committed geometry and whether it is committed. -/
structure GeomReg extends Geometry where
  valid : Bool
  deriving DecidableEq, Repr

/-- `FR.phase` (R28). -/
inductive Phase where
  | idle | poll | body
  deriving DecidableEq, Repr

/-- `FR.cmd`, the name of the framer command in flight (R29). -/
inductive FrameCmd where
  | statusRead | readArray | bufWrite | pageToBuf | bufToPage | blockErase
  deriving DecidableEq, Repr

/-- `FR` (R28, R29), with the latch `sample` that row POLL 3 of R135 tests (log 7). -/
structure Framer where
  phase  : Phase
  pos    : Nat
  cmd    : FrameCmd
  opcode : Byte
  /-- Present for address-bearing commands (R29): the spec's own Option. -/
  wire   : Option Wire
  ndummy : Nat
  tx     : List Byte
  nrx    : Nat
  rx     : List Byte
  sample : Byte
  deriving DecidableEq, Repr

/-! ## The client (R36, R170) -/

/-- A command request on the client port (R36): a row of the opcode table, or one of the three buffer commands with its
buffer index as the client wrote it, which may have no row (R89; log 13). -/
inductive Request where
  | row (i : Instr)
  | bufWrite (buf o : Nat) (bytes : List Byte)
  | pageToBuf (buf p : Nat)
  | bufToPage (buf p : Nat)
  deriving DecidableEq, Repr

/-- The client routines: the pseudo-instructions of R93, expanded in 43_client_macros.md. -/
inductive Routine where
  /-- `initialize(expectedDensity)` (R172). -/
  | detectAndCommit (expected : Nat)
  /-- `busy()` (R174). -/
  | busy
  /-- `readByte(addr)` (R175). -/
  | readByte (a : Addr)
  /-- `readBytes(addr, len)` (R176). -/
  | readBytes (a : Addr) (n : Nat)
  /-- `start(addr)` (R177). -/
  | start (a : Addr)
  /-- `writeByte(addr, v)` inside a session (R178). -/
  | sessionWrite (a : Addr) (v : Byte)
  /-- `stop()` (R179). -/
  | stop
  /-- The public `writeBytes(addr, bytes)` (R180). -/
  | writeBytes (a : Addr) (bytes : List Byte)
  /-- The public `writeByte(addr, byte)` (R180). -/
  | writeByte (a : Addr) (v : Byte)
  /-- `eraseBlock(index)` (R183). -/
  | eraseBlock (i : Nat)
  /-- `chipErase()` (R184). -/
  | chipErase
  /-- `eraseSized(addr, sizeBytes)` (R185). -/
  | eraseSized (a : Addr) (size : Nat)
  /-- `eraseBlock4K(addr)` (R186). -/
  | eraseBlock4K (a : Addr)
  /-- `eraseBlock32K(addr)` (R186). -/
  | eraseBlock32K (a : Addr)
  /-- `eraseBlock64K(addr)` (R186). -/
  | eraseBlock64K (a : Addr)
  /-- `readUniqueId()` (R187). -/
  | readUniqueId
  /-- `sleep()` (R188). -/
  | sleep
  /-- `wakeup()` (R188). -/
  | wakeup
  /-- `end()` (R189). -/
  | endSession
  deriving DecidableEq, Repr

/-- Why a routine failed: a result code of the block, or one of the client-level failures (R210). -/
inductive Failure where
  | code (r : Result)
  | sessionActive
  | noSession
  deriving DecidableEq, Repr

/-- What a routine returns. -/
inductive RoutineValue where
  | unit
  | bool (b : Bool)
  | byte (v : Byte)
  | bytes (l : List Byte)
  deriving DecidableEq, Repr

/-- How a routine ended. -/
inductive RoutineResult where
  | returned (v : RoutineValue)
  | failed (f : Failure)
  deriving DecidableEq, Repr

/-- One action of a routine (log 17). A routine in progress is a list of these. -/
inductive ClientOp where
  /-- Present a command, then wait for its response. -/
  | call (r : Request)
  /-- Read `RESP`: stop the routine at a result other than `OK` (R170). -/
  | check
  /-- Read `RESP` of a detection's command: any failure makes the routine return false (R172; log 18). -/
  | checkDetect
  /-- One outer attempt of the detection, `left` remaining (R172). -/
  | detect (left expected : Nat)
  /-- The status byte of an attempt has been read. -/
  | detectFirst (left expected : Nat)
  /-- The inner poll of an attempt, `polls` reads done. -/
  | detectPoll (left polls expected : Nat)
  /-- `start` from its first line (R177). -/
  | startSession (a : Addr)
  /-- `SESSION.activePage <- p`. -/
  | setActive (p : Option Nat)
  /-- `writeByte` in a session from its first line (R178). -/
  | sessionByte (a : Addr) (v : Byte)
  /-- `stop` from its first line (R179). -/
  | stopSession
  /-- Return a value. -/
  | finish (v : RoutineValue)
  /-- `busy()`: return whether the ready bit of the status byte is 0 (R174). -/
  | finishBusy
  /-- Return byte 0 of the data read. -/
  | finishByte
  /-- Return the data read. -/
  | finishBytes
  deriving DecidableEq, Repr

/-- Something the client does next: present a command, or run a routine. -/
inductive Move where
  | command (r : Request)
  | routine (r : Routine)
  deriving DecidableEq, Repr

structure Client where
  /-- `SESSION.activePage` (R171), absent when idle. -/
  session : Option Nat
  /-- The rest of the routine in progress. -/
  todo    : List ClientOp
  /-- What the client has yet to do: an input of a run (log 11). -/
  program : List Move
  /-- How the last routine ended. -/
  result  : Option RoutineResult
  deriving DecidableEq, Repr

/-! ## The inputs and the chip -/

/-- A sample of the reset and power input (R230 to R232; log 15). -/
inductive Pin where
  | run | reset | powerCycle
  deriving DecidableEq, Repr

/-- Bytes by address, in canonical form: addresses strictly rising, no entry equal to what an unlisted address reads as
(`Machine.Memory.wf`). Only the chip stub has memory; the block has none (20_memory.md). -/
abbrev Memory := List Host.Cell

/-- The chip stub of R192, informative: "no rule of the block depends on it". -/
structure Stub where
  geom     : Geometry
  /-- The density code of the status byte. -/
  density  : BitVec 4
  /-- `array[page][offset]` at address `page * S + offset`. -/
  array    : Memory
  /-- `buffer[b][offset]` at address `b * S + offset`. -/
  buffers  : Memory
  /-- The status frames that will still show busy; 0 when ready. -/
  busy     : Nat
  /-- For how many status frames an operation makes the chip busy: the "finite time" of R192, in the unit of the spec's
  programs P2 and P4. -/
  busyTime : Nat
  /-- The bytes received since chip-select was asserted. -/
  received : List Byte
  deriving DecidableEq, Repr

/-- The whole state. -/
structure State where
  /-- The parameters (R9, R38): no step writes them. -/
  cfg     : Config
  geom    : GeomReg
  /-- `ENDED` (R26). -/
  ended   : Bool
  /-- `SEL` (R27). -/
  sel     : Bool
  fr      : Framer
  /-- `POLLS` (R30). -/
  polls   : Nat
  /-- `RESP` (R31); absent while it is "not valid" (R39). -/
  resp    : Option Resp
  /-- The bus trace (R14). -/
  trace   : List BusEvent
  client  : Client
  /-- The next samples of the reset and power input, one a step; none left means no reset (log 15). -/
  pins    : List Pin
  /-- The chip's answers to the next transfers (R4); past its end the answers are `Config.chipAnswer` (log 5). -/
  answers : List Byte
  /-- The model's own counter, which each transfer and each power cycle advance and only the free values are applied to (log 5). -/
  draws   : Nat
  /-- The optional chip stub (R192). -/
  stub    : Option Stub
  deriving DecidableEq, Repr

/-- No fault: the block has no traps, every failure is a result code and the machine goes on (60_exceptions.md, R205). -/
inductive Fault where
  deriving DecidableEq, Repr

/-- Why the model gives a step no meaning. -/
inductive Refusal where
  /-- Raised by an arm of `exec` that has no meaning yet. Safe. -/
  | notModelled (mnemonic : String)
  /-- Raised by `step`, and by `COMMIT_GEOMETRY` of a density index the table has no row for, where the parameters break
  R25 or R9: "A model refuses a table that does not" (log 4). Safe. -/
  | illegalParameters
  deriving DecidableEq, Repr

/-- `GEOM` after reset: `valid` is 0 (R39); the numeric fields are unspecified there, DESIGN CHOICE 0 (log 6). -/
def GeomReg.reset : GeomReg := { pageBitWidth := 0, pageByteSize := 0, totalPages := 0, valid := false }

/-- `FR` after reset: `phase` is IDLE (R39); the other fields are unspecified there, DESIGN CHOICE (log 6). -/
def Framer.reset : Framer where
  phase := .idle
  pos := 0
  cmd := .statusRead
  opcode := 0
  wire := none
  ndummy := 0
  tx := []
  nrx := 0
  rx := []
  sample := 0

/-- The machine after reset (R39, R230), before anything has crossed the bus and with nothing presented. -/
def State.reset : State where
  cfg := Config.default
  geom := GeomReg.reset
  ended := false
  sel := false
  fr := Framer.reset
  polls := 0
  resp := none
  trace := []
  client := { session := none, todo := [], program := [], result := none }
  pins := []
  answers := []
  draws := 0
  stub := none

end Sys2Proof.Machine
end

