-- ==== Sys2Proof/Machine/Flags.lean ====
section
/-!
DEFINITION. The flag-like values: the bits of the chip's status byte (R33), the density conversion (R173), the block's flags
and modes (R32, R211), the numbers of the result codes (R200). The block has no condition codes (R32).
-/

namespace Sys2Proof.Machine

/-- `ready(s) = (s[READY_BIT] = 1)` (R33). -/
def ready (c : Config) (s : Byte) : Bool := s.getLsbD c.readyBit

/-- The density field `raw = status[5:2]` (R33). -/
def densityField (s : Byte) : Nat := s.toNat / 4 % 16

/-- The canonical density index, `(raw - 3) div 2` for `raw >= 3`; below 3 there is none (R173). -/
def densityIndex (s : Byte) : Option Nat :=
  if 3 ≤ densityField s then some ((densityField s - 3) / 2) else none

/-- `INFLIGHT`, a command in flight (R32). -/
def State.inflight (s : State) : Bool := decide (s.fr.phase ≠ .idle)

/-- The lifecycle modes (R211). -/
inductive Mode where
  | uncommitted | committed | ended
  deriving DecidableEq, Repr

/-- The mode, decided by `GEOM.valid` and `ENDED` (R211). -/
def State.mode (s : State) : Mode :=
  if s.ended then .ended else if s.geom.valid then .committed else .uncommitted

/-- The number of a result code (R200), visible on the client port only. -/
def Result.number : Result → Nat
  | .ok => 0
  | .notCommitted => 1
  | .outOfRange => 2
  | .busTimeout => 3
  | .ended => 4
  | .alreadyCommitted => 5
  | .badOperand => 6

end Sys2Proof.Machine
end

