-- ==== Sys2Proof/Machine/Chip.lean ====
section
/-!
DEFINITION. The chip stub of R192: a deterministic environment for the source's end-to-end properties. It is informative and
from general knowledge (PRESUMED by the spec itself, log 21): no rule of the block depends on it, and a state whose `stub` is
absent has a chip whose every answer is free.
-/

namespace Sys2Proof.Machine

/-- The status byte `{ready, 0, density[3:0], 0, 0}`, bits 7..0 (R192). -/
def Stub.status (k : Stub) : Byte := BitVec.ofNat 8 ((if k.busy = 0 then 128 else 0) + k.density.toNat * 4)

/-- The wire address in the frame received so far, once it holds the three address bytes. -/
def Stub.wire? (k : Stub) : Option Wire :=
  match k.received with
  | _ :: b2 :: b1 :: b0 :: _ => some (wireOfBytes b2 b1 b0)
  | _ => none

/-- The page field, reduced modulo T (R192). -/
def Stub.page (k : Stub) (w : Wire) : Nat := pageField k.geom w % k.geom.totalPages

/-- The byte of the array an array read answers with in payload slot `j`: the offset steps through the page, then through the
following pages, and from the last page to page 0 (R192). -/
def Stub.readAddress (k : Stub) (w : Wire) (j : Nat) : Nat :=
  (linearOf k.geom (k.page w) (offsetField k.geom w) + j) % capacity k.geom

/-- What the stub answers to the next transfer of the frame it is receiving, where R192 says; elsewhere the answer is free
("any value, ignored by the block", R14). -/
def Stub.answer (c : Config) (k : Stub) : Option Byte :=
  match k.received with
  | [] => none
  | opc :: rest =>
    if opc = c.opcStatusRead then some k.status
    else if k.busy ≠ 0 then none
    else if opc = c.opcReadArray then
      match k.wire? with
      | none => none
      | some w =>
        if 7 ≤ rest.length && decide (offsetField k.geom w < k.geom.pageByteSize) then
          some (k.array.read (k.readAddress w (rest.length - 7)))
        else none
    else none

/-- Which of the `N_BUFFERS` buffers a frame of one of the enumerated tables of R89 selects. -/
def bufferOfOpcode (c : Config) (table : List Byte) (opc : Byte) : Option Nat := (table.take c.nBuffers).findIdx? (· == opc)

/-- A payload byte of a buffer write is stored as it arrives, the offset wrapping to 0 after `S - 1` (R192). -/
def Stub.storePayload (c : Config) (k : Stub) (tx : Byte) : Memory :=
  match k.received, k.wire? with
  | opc :: rest, some w =>
    match bufferOfOpcode c c.opcBufWrite opc with
    | none => k.buffers
    | some b =>
      if k.busy = 0 && decide (offsetField k.geom w < k.geom.pageByteSize) then
        k.buffers.write (linearOf k.geom b ((offsetField k.geom w + (rest.length - 3)) % k.geom.pageByteSize)) tx
      else k.buffers
  | _, _ => k.buffers

/-- The stub takes the byte sent in one transfer. -/
def Stub.receive (c : Config) (k : Stub) (tx : Byte) : Stub :=
  { k with buffers := k.storePayload c tx, received := k.received ++ [tx] }

/-- Chip-select is asserted: a frame begins. -/
def Stub.select (k : Stub) : Stub := { k with received := [] }

/-- `buffer[b] <- array[page]` (R192), busy afterwards. -/
def Stub.fetch (k : Stub) (b : Nat) (w : Wire) : Stub :=
  { k with
    buffers := k.buffers.fill (linearOf k.geom b 0) (fun j => k.array.read (linearOf k.geom (k.page w) j)) k.geom.pageByteSize
    busy := k.busyTime }

/-- `array[page] <- buffer[b]` (R192), busy afterwards. -/
def Stub.program (k : Stub) (b : Nat) (w : Wire) : Stub :=
  { k with
    array := k.array.fill (linearOf k.geom (k.page w) 0) (fun j => k.buffers.read (linearOf k.geom b j)) k.geom.pageByteSize
    busy := k.busyTime }

/-- The 8 pages `page - (page mod 8) .. + 7` become `ERASED_WIRE` (R192), busy afterwards. -/
def Stub.erase (c : Config) (k : Stub) (w : Wire) : Stub :=
  { k with
    array := k.array.fill (linearOf k.geom (k.page w - k.page w % Config.blockPages) 0) (fun _ => c.erasedWire)
      (Config.blockPages * k.geom.pageByteSize)
    busy := k.busyTime }

/-- The effect of the frame received, at chip-select release (R192): a status frame counts against the busy time; any other
opcode is ignored while busy. DESIGN CHOICE (log 29): what the chip does with a frame that a reset cuts short is "not in the
source" (R231); here the release of the reset acts as any other, on the bytes received so far. A frame without its three
address bytes is ignored, one that has them takes effect whole, a status frame with its opcode alone counts against the busy
time. -/
def Stub.execute (c : Config) (k : Stub) : Stub :=
  match k.received, k.wire? with
  | opc :: _, w? =>
    if opc = c.opcStatusRead then { k with busy := k.busy - 1 }
    else if k.busy ≠ 0 then k
    else match w? with
      | none => k
      | some w =>
        match bufferOfOpcode c c.opcPageToBuf opc, bufferOfOpcode c c.opcBufToPage opc with
        | some b, _ => k.fetch b w
        | none, some b => k.program b w
        | none, none => if opc = c.opcBlockErase then k.erase c w else k
  | [], _ => k

/-- Chip-select is released: the frame takes effect. -/
def Stub.unselect (c : Config) (k : Stub) : Stub := { k.execute c with received := [] }

/-- A power cycle of the node: "the chip's array content stays; the chip's buffer content is not promised" (R232). The
buffers then hold free values, the chip is not busy (log 23), and a frame it was receiving has no effect (log 29). -/
def Stub.powerUp (c : Config) (draws : Nat) (k : Stub) : Stub :=
  { k with
    buffers := k.buffers.fill 0 (fun j => Config.powerUpByte draws j) (c.nBuffers * k.geom.pageByteSize)
    busy := 0
    received := [] }

end Sys2Proof.Machine
end

