-- ==== Sys2Proof/Machine/Ops.lean ====
section
/-!
DEFINITION. The shared operations: the three bus primitives (R13, R37), finishing a command (R134) and failing one (R205),
admission (R110, R130), the micro-steps of the not-busy wait and of the body frame (R131, R132, R135), reset (R230 to R232).
-/

namespace Sys2Proof.Machine

abbrev StepResult := Host.Outcome State Fault Refusal

/-! ## Bus primitives -/

/-- `select()`: assert chip-select; appends `SEL` (R13). -/
def select (s : State) : State :=
  { s with sel := true, trace := s.trace ++ [.sel], stub := s.stub.map Stub.select }

/-- `unselect()`: deassert chip-select; appends `UNSEL` (R13). -/
def unselect (s : State) : State :=
  { s with sel := false, trace := s.trace ++ [.unsel], stub := s.stub.map (Stub.unselect s.cfg) }

/-- The chip's answer to the next transfer: the stub's where there is a stub and it answers; else the next of the tape; else
free (R4; log 5). -/
def chipReply (s : State) : Byte :=
  match s.stub.bind (Stub.answer s.cfg) with
  | some r => r
  | none =>
    match s.answers with
    | r :: _ => r
    | [] => Config.chipAnswer s.draws

/-- `transfer(tx)`: exchange one byte; appends `XFER(tx, rx)` (R13), where `rx` is `chipReply` of the state before. -/
def transfer (tx : Byte) (s : State) : State :=
  { s with
    trace := s.trace ++ [.xfer tx (chipReply s)]
    answers := s.answers.tail
    draws := s.draws + 1
    stub := s.stub.map (fun k => k.receive s.cfg tx) }

/-! ## Ending a command -/

/-- Answer a command that performs no bus event, or refuse one at admission: only `RESP` changes (R110, R130). -/
def respond (r : Result) (d : RespData) (s : State) : State := { s with resp := some { result := r, data := d } }

/-- A failure's response carries no data (R205). -/
def refuse (r : Result) (s : State) : State := respond r (.bytes []) s

/-- `raise E` (R205): the command in flight finishes with result `E` and no data, the framer is idle, nothing else changes.
This block's "taking an exception". -/
def raise (r : Result) (s : State) : State := { refuse r s with fr := { s.fr with phase := .idle } }

/-- Completion (R134): result `OK` with the bytes received, the framer idle. -/
def complete (s : State) : State := { respond .ok (.bytes s.fr.rx) s with fr := { s.fr with phase := .idle } }

/-! ## Admission -/

/-- A translator function presented as a command (R110): `Ended`, then `NotCommitted`, else its value. -/
def answerTranslation (f : Geometry → RespData) (s : State) : StepResult :=
  if s.ended then .next (refuse .ended s)
  else if s.geom.valid = false then .next (refuse .notCommitted s)
  else .next (respond .ok (f s.geom.toGeometry) s)

/-- The frame fields computed at admission (R29, R130), and the phase that follows it (R135). -/
def frame (phase : Phase) (cmd : FrameCmd) (opc : Byte) (wire : Option Wire) (ndummy : Nat) (tx : List Byte) (nrx : Nat) :
    Framer where
  phase := phase
  pos := 0
  cmd := cmd
  opcode := opc
  wire := wire
  ndummy := ndummy
  tx := tx
  nrx := nrx
  rx := []
  sample := 0

/-- A command is admitted (R130): the frame fields, `POLLS <- 0` (for a status read too, log 9), and no response until it
finishes (R31). -/
def admitted (f : Framer) (s : State) : State := { s with fr := f, polls := 0, resp := none }

/-- Admission of an address-bearing framer command (R130): `Ended`, `NotCommitted`, `BadOperand` for a buffer index with no
opcode (R89), `OutOfRange` when `BOUNDS_CHECK`; else the not-busy wait begins. The order of the checks is R206. -/
def admitAddressed (cmd : FrameCmd) (opc : Option Byte) (inRange : Bool) (wire : Wire) (ndummy : Nat) (tx : List Byte)
    (nrx : Nat) (s : State) : StepResult :=
  if s.ended then .next (refuse .ended s)
  else if s.geom.valid = false then .next (refuse .notCommitted s)
  else match opc with
    | none => .next (refuse .badOperand s)
    | some b =>
      if s.cfg.boundsCheck && !inRange then .next (refuse .outOfRange s)
      else .next (admitted (frame .poll cmd b (some wire) ndummy tx nrx) s)

/-- `BUF_WRITE buf, o, bytes` (R143). -/
def admitBufWrite (buf o : Nat) (bytes : List Byte) (s : State) : StepResult :=
  admitAddressed .bufWrite (s.cfg.bufOpcode s.cfg.opcBufWrite buf) (bufferRunInRange s.geom.toGeometry o bytes.length)
    (wireOfBuffer s.geom.toGeometry o) 0 (bytes.map invert) 0 s

/-- `PAGE_TO_BUF buf, p` (R144). -/
def admitPageToBuf (buf p : Nat) (s : State) : StepResult :=
  admitAddressed .pageToBuf (s.cfg.bufOpcode s.cfg.opcPageToBuf buf) (pageInRange s.geom.toGeometry p)
    (wireOfPage s.geom.toGeometry p) 0 [] 0 s

/-- `BUF_TO_PAGE buf, p` (R145). -/
def admitBufToPage (buf p : Nat) (s : State) : StepResult :=
  admitAddressed .bufToPage (s.cfg.bufOpcode s.cfg.opcBufToPage buf) (pageInRange s.geom.toGeometry p)
    (wireOfPage s.geom.toGeometry p) 0 [] 0 s

/-! ## The framer's micro-steps (R135) -/

/-- The bytes sent before the payload: opcode, address, dummy bytes (R132). -/
def header (c : Config) (f : Framer) : List Byte :=
  [f.opcode] ++ (match f.wire with | none => [] | some w => wireBytes w) ++ List.replicate f.ndummy c.fillByte

/-- The form in which a received byte is handed to the client: array data inverted (R62), a status byte as received (R63). -/
def deliver (cmd : FrameCmd) (r : Byte) : Byte :=
  match cmd with
  | .readArray => invert r
  | .statusRead => r
  | .bufWrite => r
  | .pageToBuf => r
  | .bufToPage => r
  | .blockErase => r

/-- Advance to the next event of the frame. -/
def nextPos (s : State) : State := { s with fr := { s.fr with pos := s.fr.pos + 1 } }

/-- Where the wait goes after a status frame: on to the body if it shows ready, else around again (R131). -/
def phaseAfter (c : Config) (status : Byte) : Phase := if ready c status then .body else .poll

/-- The rows POLL 0 to POLL 3 of R135: one event of the not-busy wait (R131). -/
def pollStep (s : State) : State :=
  match s.fr.pos with
  | 0 => if s.cfg.pollBudget = some s.polls then raise .busTimeout s else nextPos (select s)
  | 1 => nextPos (transfer s.cfg.opcStatusRead s)
  | 2 => nextPos { transfer s.cfg.fillByte s with fr := { s.fr with sample := chipReply s } }
  | _ =>
    { unselect s with
      polls := s.polls + 1
      fr := { s.fr with phase := phaseAfter s.cfg s.fr.sample, pos := 0 } }

/-- The rows BODY 0 to BODY L + 1 of R135: one event of the body frame (R132). -/
def bodyStep (s : State) : State :=
  match s.fr.pos with
  | 0 => nextPos (select s)
  | p + 1 =>
    match (header s.cfg s.fr)[p]? with
    | some b => nextPos (transfer b s)
    | none =>
      match s.fr.tx with
      | t :: ts => nextPos { transfer t s with fr := { s.fr with tx := ts } }
      | [] =>
        match s.fr.nrx with
        | n + 1 =>
          nextPos { transfer s.cfg.fillByte s with
            fr := { s.fr with nrx := n, rx := s.fr.rx ++ [deliver s.fr.cmd (chipReply s)] } }
        | 0 => complete (unselect s)

/-! ## Reset (R230 to R232) -/

/-- Every register of the block at its reset value (R39), the client's session and routine in progress gone; the bus trace,
the parameters, the chip and what is still to come stay (log 15). -/
def resetBlock (s : State) : State :=
  { s with
    geom := GeomReg.reset
    ended := false
    sel := false
    fr := Framer.reset
    polls := 0
    resp := none
    client := { s.client with session := none, todo := [], result := none } }

/-- The reset input: one `unselect()` if `SEL = 1`, so that the bus is released on this exit too (R231). The chip is "not affected
by the block's reset" (R39). DESIGN CHOICE (log 28): the stub's buffers, which R39 calls unspecified, stay as they are, but for a
frame that this `UNSEL` cuts short (log 29). -/
def resetInput (s : State) : State := resetBlock (if s.sel then unselect s else s)

/-- A power cycle: a reset with no bus event (R232). -/
def powerCycle (s : State) : State :=
  resetBlock { s with stub := s.stub.map (Stub.powerUp s.cfg s.draws), draws := s.draws + 1 }

end Sys2Proof.Machine
end

