-- ==== Sys2Proof/Machine/Control.lean ====
section
/-!
DEFINITION. The control commands (R160, R161): no bus event.
-/

namespace Sys2Proof.Machine

/-- `COMMIT_GEOMETRY d` (R160): `Ended`, `BadOperand`, `AlreadyCommitted`, else `GEOM` takes row `d` of the table. -/
def execCommitGeometry (d : Nat) (s : State) : StepResult :=
  if s.ended then .next (refuse .ended s)
  else if Config.nVariants ≤ d then .next (refuse .badOperand s)
  else if s.geom.valid then .next (refuse .alreadyCommitted s)
  else match s.cfg.geomTable[d]? with
    | none => .refused .illegalParameters
    | some row => .next (respond .ok (.bytes []) { s with geom := { toGeometry := row, valid := true } })

/-- `END` (R161). -/
def execEnd (s : State) : StepResult :=
  if s.ended then .next (refuse .ended s) else .next (respond .ok (.bytes []) { s with ended := true })

end Sys2Proof.Machine
end

