-- ==== Sys2Proof/Machine/Framer.lean ====
section
/-!
DEFINITION. The framer commands (R140 to R146). A meaning presents the command: it is refused by a result code or admitted; the
frame it then sends is walked by `pollStep` and `bodyStep`, one bus primitive a step (R135; log 1).
-/

namespace Sys2Proof.Machine

/-- `STATUS_READ` (R140): check 1 of R130 only; no wait, the body at once; one byte received, not inverted. -/
def execStatusRead (s : State) : StepResult :=
  if s.ended then .next (refuse .ended s)
  else .next (admitted (frame .body .statusRead s.cfg.opcStatusRead none 0 [] 1) s)

/-- `READ_ARRAY a, n` (R141): the address of `XLATE a`, 4 dummy bytes, `n` bytes received and inverted. -/
def execReadArray (a : Addr) (n : Nat) (s : State) : StepResult :=
  admitAddressed .readArray (some s.cfg.opcReadArray) (linearRunInRange s.geom.toGeometry a n)
    (wireOfLinear s.geom.toGeometry a) Config.nDummyRead [] n s

/-- `BUF_WRITE 0, o, bytes` (R143). -/
def execBufWriteBuf0 (o : Nat) (bytes : List Byte) (s : State) : StepResult := admitBufWrite 0 o bytes s

/-- `BUF_WRITE 1, o, bytes` (R143). -/
def execBufWriteBuf1 (o : Nat) (bytes : List Byte) (s : State) : StepResult := admitBufWrite 1 o bytes s

/-- `PAGE_TO_BUF 0, p` (R144). -/
def execPageToBufBuf0 (p : Nat) (s : State) : StepResult := admitPageToBuf 0 p s

/-- `PAGE_TO_BUF 1, p` (R144). -/
def execPageToBufBuf1 (p : Nat) (s : State) : StepResult := admitPageToBuf 1 p s

/-- `BUF_TO_PAGE 0, p` (R145). -/
def execBufToPageBuf0 (p : Nat) (s : State) : StepResult := admitBufToPage 0 p s

/-- `BUF_TO_PAGE 1, p` (R145). -/
def execBufToPageBuf1 (p : Nat) (s : State) : StepResult := admitBufToPage 1 p s

/-- `BLOCK_ERASE i` (R146): the address of page `8 * i`. -/
def execBlockErase (i : Nat) (s : State) : StepResult :=
  admitAddressed .blockErase (some s.cfg.opcBlockErase) (blockInRange s.geom.toGeometry i)
    (wireOfBlock s.geom.toGeometry i) 0 [] 0 s

end Sys2Proof.Machine
end

