-- ==== Sys2Proof/Machine/Translator.lean ====
section
/-!
DEFINITION. The translator functions as commands (R110 to R118): no bus event, only `RESP` is written.
-/

namespace Sys2Proof.Machine

/-- `PAGEOF a` (R111). -/
def execPageof (a : Addr) (s : State) : StepResult := answerTranslation (fun g => .nat (pageOf g a.toNat)) s

/-- `OFFSETOF a` (R112). -/
def execOffsetof (a : Addr) (s : State) : StepResult := answerTranslation (fun g => .nat (offsetOf g a.toNat)) s

/-- `LINEAROF p, o` (R113). -/
def execLinearof (p o : Nat) (s : State) : StepResult := answerTranslation (fun g => .nat (linearOf g p o)) s

/-- `PACK p, o` (R115, R116): the 24-bit wire address, as a natural. -/
def execPack (p o : Nat) (s : State) : StepResult := answerTranslation (fun g => .nat (wireOf g p o).toNat) s

/-- The three bytes of a wire address, as a response (R117). -/
def splitData (w : Wire) : RespData := .triple (wireHigh w) (wireMid w) (wireLow w)

/-- `SPLIT3 w` (R117): it does not read `GEOM`, so it fails with `Ended` only. -/
def execSplit3 (w : Wire) (s : State) : StepResult :=
  if s.ended then .next (refuse .ended s) else .next (respond .ok (splitData w) s)

/-- `XLATE a` (R118). -/
def execXlate (a : Addr) (s : State) : StepResult := answerTranslation (fun g => splitData (wireOfLinear g a)) s

end Sys2Proof.Machine
end

