-- ==== Sys2Proof/Machine/Dispatch.lean ====
section
/-!
DEFINITION. What each command does when it is presented: one arm per constructor of `Instr`.
-/

namespace Sys2Proof.Machine

/-- Present a command to the block. -/
def exec (i : Instr) (s : State) : Host.Outcome State Fault Refusal :=
  match i with
  | .statusRead => Sys2Proof.Machine.execStatusRead s
  | .readArray a n => Sys2Proof.Machine.execReadArray a n s
  | .bufWriteBuf0 o bytes => Sys2Proof.Machine.execBufWriteBuf0 o bytes s
  | .bufWriteBuf1 o bytes => Sys2Proof.Machine.execBufWriteBuf1 o bytes s
  | .pageToBufBuf0 p => Sys2Proof.Machine.execPageToBufBuf0 p s
  | .pageToBufBuf1 p => Sys2Proof.Machine.execPageToBufBuf1 p s
  | .bufToPageBuf0 p => Sys2Proof.Machine.execBufToPageBuf0 p s
  | .bufToPageBuf1 p => Sys2Proof.Machine.execBufToPageBuf1 p s
  | .blockErase k => Sys2Proof.Machine.execBlockErase k s
  | .pageof a => Sys2Proof.Machine.execPageof a s
  | .offsetof a => Sys2Proof.Machine.execOffsetof a s
  | .linearof p o => Sys2Proof.Machine.execLinearof p o s
  | .pack p o => Sys2Proof.Machine.execPack p o s
  | .split3 w => Sys2Proof.Machine.execSplit3 w s
  | .xlate a => Sys2Proof.Machine.execXlate a s
  | .commitGeometry d => Sys2Proof.Machine.execCommitGeometry d s
  | .endBlock => Sys2Proof.Machine.execEnd s

end Sys2Proof.Machine
end

