-- ==== Sys2Proof/Machine/Client.lean ====
section
/-!
DEFINITION. The client: presenting a command (R36), and the client routines, the block's pseudo-instructions (R93, R170 to R190).
"A macro is executed by the client: it presents one block command, waits for its RESP, and goes on" (R170). A routine in
progress is a list of actions in `client.todo`; one action is one step (log 17). `PAGEOF` and `OFFSETOF` in a routine's
pseudocode are the translator's functions, which the client evaluates and does not present: they are not among the commands a
session presents (R182, 95_test_vectors.md P3b), and a sized erase is refused with "no command presented" (R185).
-/

namespace Sys2Proof.Machine

/-- Present a request: a row of the table runs as that row; a buffer index with no row goes through the same admission, where
it is refused or, with more buffers, finds its opcode (R89; log 13). -/
def present (r : Request) (s : State) : StepResult :=
  match r with
  | .row i => exec i s
  | .bufWrite 0 o bytes => exec (.bufWriteBuf0 o bytes) s
  | .bufWrite 1 o bytes => exec (.bufWriteBuf1 o bytes) s
  | .bufWrite (k + 2) o bytes => admitBufWrite (k + 2) o bytes s
  | .pageToBuf 0 p => exec (.pageToBufBuf0 p) s
  | .pageToBuf 1 p => exec (.pageToBufBuf1 p) s
  | .pageToBuf (k + 2) p => admitPageToBuf (k + 2) p s
  | .bufToPage 0 p => exec (.bufToPageBuf0 p) s
  | .bufToPage 1 p => exec (.bufToPageBuf1 p) s
  | .bufToPage (k + 2) p => admitBufToPage (k + 2) p s

/-! ## What a routine reads and how it ends -/

/-- The actions still to do. -/
def setTodo (ops : List ClientOp) (s : State) : State := { s with client := { s.client with todo := ops } }

/-- The routine stops with a failure: "presents no further command and undoes nothing" (R170). -/
def failRoutine (f : Failure) (s : State) : State :=
  { s with client := { s.client with todo := [], result := some (.failed f) } }

/-- The routine returns a value. -/
def returnRoutine (v : RoutineValue) (s : State) : State :=
  { s with client := { s.client with todo := [], result := some (.returned v) } }

/-- `SESSION.activePage <- p` (R171). -/
def setSession (p : Option Nat) (s : State) : State := { s with client := { s.client with session := p } }

/-- The bytes of the response. -/
def respBytes (s : State) : List Byte :=
  match s.resp with
  | some { data := .bytes l, .. } => l
  | _ => []

/-- Byte 0 of the response. -/
def respByte (s : State) : Byte := (respBytes s).headD 0

/-! ## The expansions -/

/-- `writeByte(addr + k, bytes_k)` for `k = 0 .. len - 1` (R180); the sum in 32 bits (log 19). -/
def sessionBytes (a : Addr) : List Byte → List ClientOp
  | [] => []
  | v :: vs => .sessionByte a v :: sessionBytes (a + 1) vs

/-- `writeBytes(addr, bytes)` after its range check (R180). -/
def writeOps (a : Addr) (bytes : List Byte) : List ClientOp :=
  [.startSession a] ++ sessionBytes a bytes ++ [.stopSession, .finish .unit]

/-- `ceil(a / b)` (R12). -/
def ceilDiv (a b : Nat) : Nat := (a + b - 1) / b

/-- The 8-page blocks covering `[start, start + n)`, ascending (R185); none for no pages (log 20). -/
def coveringBlocks (start n : Nat) : List Nat :=
  if n = 0 then []
  else List.range' (start / Config.blockPages)
    ((start + n - 1) / Config.blockPages - start / Config.blockPages + 1)

/-- The number of pages `eraseSized` erases: `ceil(sizeBytes / S) + ERASE_MARGIN_PAGES` (R185). -/
def erasePageCount (c : Config) (g : Geometry) (size : Nat) : Nat := ceilDiv size g.pageByteSize + c.eraseMarginPages

/-- The blocks of `eraseSized` (R185). -/
def eraseTargets (c : Config) (g : Geometry) (a : Addr) (size : Nat) : List Nat :=
  coveringBlocks (pageOf g a.toNat) (erasePageCount c g size)

def eraseBlocksOps (blocks : List Nat) : List ClientOp := blocks.map fun i => .call (.row (.blockErase i))

/-- `eraseSized(addr, sizeBytes)`: the range check comes first and presents no command (R185); before a commit there is no range,
and the block's own answer to the first erase decides (log 17). -/
def eraseStart (s : State) (a : Addr) (size : Nat) : Except Failure (List ClientOp) :=
  if s.geom.valid = false then .ok (eraseBlocksOps [0] ++ [.finish .unit])
  else if s.cfg.boundsCheck && (decide (capacity s.geom.toGeometry ≤ a.toNat)
      || (eraseTargets s.cfg s.geom.toGeometry a size).any (fun i => !blockInRange s.geom.toGeometry i)) then
    .error (.code .outOfRange)
  else .ok (eraseBlocksOps (eraseTargets s.cfg s.geom.toGeometry a size) ++ [.finish .unit])

/-- `writeBytes(addr, bytes)`: the range check comes first and presents no command (R180); before a commit there is no range,
and the block's own answer to the first command decides (log 17). -/
def writeStart (s : State) (a : Addr) (bytes : List Byte) : Except Failure (List ClientOp) :=
  if s.geom.valid && s.cfg.boundsCheck && !linearRunInRange s.geom.toGeometry a bytes.length then .error (.code .outOfRange)
  else .ok (writeOps a bytes)

/-- The blocks of `chipErase`: all `T div 8` in ascending order (R184); before a commit the first only, which the block
refuses (log 17). -/
def chipEraseBlocks (s : State) : List Nat :=
  if s.geom.valid then List.range (s.geom.totalPages / Config.blockPages) else [0]

/-- The first address of the last page, where the identifier stands (R187). -/
def idAddress (g : Geometry) : Addr := BitVec.ofNat 32 ((g.totalPages - 1) * g.pageByteSize)

/-- The expansion of a routine (R172 to R189), or the failure it begins and ends with. -/
def expand (s : State) : Routine → Except Failure (List ClientOp)
  | .detectAndCommit e => .ok [.detect Config.detectAttempts e]
  | .busy => .ok [.call (.row .statusRead), .finishBusy]
  | .readByte a => .ok [.call (.row (.readArray a 1)), .finishByte]
  | .readBytes a n => .ok [.call (.row (.readArray a n)), .finishBytes]
  | .start a => .ok [.startSession a, .finish .unit]
  | .sessionWrite a v => .ok [.sessionByte a v, .finish .unit]
  | .stop => .ok [.stopSession, .finish .unit]
  | .writeBytes a bytes => writeStart s a bytes
  | .writeByte a v => writeStart s a [v]
  | .eraseBlock i => .ok [.call (.row (.blockErase i)), .finish .unit]
  | .chipErase => .ok (eraseBlocksOps (chipEraseBlocks s) ++ [.finish .unit])
  | .eraseSized a size => eraseStart s a size
  | .eraseBlock4K a => eraseStart s a 4096
  | .eraseBlock32K a => eraseStart s a 32768
  | .eraseBlock64K a => eraseStart s a 65536
  | .readUniqueId => .ok [.call (.row (.readArray (idAddress s.geom.toGeometry) Config.idBytes)), .finishBytes]
  | .sleep => .ok [.finish .unit]
  | .wakeup => .ok [.finish .unit]
  | .endSession => .ok [.call (.row .endBlock), .finish .unit]

/-! ## The actions -/

/-- Read `RESP`: go on at `OK`; at any other result do `onFailure`. With no response there is nothing to read yet. -/
def checkResp (rest : List ClientOp) (onFailure : Result → State) (s : State) : State :=
  match s.resp with
  | none => s
  | some { result := .ok, .. } => setTodo rest s
  | some { result := r, .. } => onFailure r

/-- `initialize`, at the head of an outer attempt (R172). -/
def detectAttempt (left expected : Nat) (rest : List ClientOp) (s : State) : StepResult :=
  match left with
  | 0 => .next (returnRoutine (.bool false) s)
  | k + 1 => present (.row .statusRead) (setTodo (.checkDetect :: .detectFirst k expected :: rest) s)

/-- `initialize`, in the inner poll with the last status byte in `RESP` (R172, R173): density and commit when ready, the next
attempt when the budget is spent (D30), else another status read. -/
def detectInner (left polls expected : Nat) (rest : List ClientOp) (s : State) : StepResult :=
  if ready s.cfg (respByte s) then
    if densityIndex (respByte s) = some expected then
      present (.row (.commitGeometry expected)) (setTodo (.checkDetect :: .finish (.bool true) :: rest) s)
    else .next (setTodo (.detect left expected :: rest) s)
  else if s.cfg.pollBudget = some polls then .next (setTodo (.detect left expected :: rest) s)
  else present (.row .statusRead) (setTodo (.checkDetect :: .detectPoll left (polls + 1) expected :: rest) s)

/-- The commands of `start`, `p` being `PAGEOF addr` (R177): clear, fetch, mark. -/
def startOps (s : State) (p : Nat) : List ClientOp :=
  [.call (.bufWrite s.cfg.sessionBuf 0 (List.replicate s.geom.pageByteSize (invert s.cfg.erasedWire))),
   .call (.pageToBuf s.cfg.sessionBuf p), .setActive (some p)]

/-- The commands of a session write, `target` being `PAGEOF addr` and `o` `OFFSETOF addr` (R178): at a page crossing program the
old page and fetch the new one first. -/
def sessionOps (s : State) (active target o : Nat) (v : Byte) : List ClientOp :=
  (if target = active then []
   else [.call (.bufToPage s.cfg.sessionBuf active), .call (.pageToBuf s.cfg.sessionBuf target), .setActive (some target)])
    ++ [.call (.bufWrite s.cfg.sessionBuf o [v])]

/-- One action of a routine, with the actions after it. -/
def clientOp (op : ClientOp) (rest : List ClientOp) (s : State) : StepResult :=
  match op with
  | .call r => present r (setTodo (.check :: rest) s)
  | .check => .next (checkResp rest (fun r => failRoutine (.code r) s) s)
  | .checkDetect => .next (checkResp rest (fun _ => returnRoutine (.bool false) s) s)
  | .detect left e => detectAttempt left e rest s
  | .detectFirst left e =>
    .next (if respByte s = 0 then setTodo (.detect left e :: rest) s else setTodo (.detectPoll left 0 e :: rest) s)
  | .detectPoll left polls e => detectInner left polls e rest s
  | .startSession a =>
    .next (match s.client.session with
      | some _ => failRoutine .sessionActive s
      | none => setTodo (startOps s (pageOf s.geom.toGeometry a.toNat) ++ rest) s)
  | .setActive p => .next (setTodo rest (setSession p s))
  | .sessionByte a v =>
    .next (match s.client.session with
      | none => failRoutine .noSession s
      | some p =>
        setTodo (sessionOps s p (pageOf s.geom.toGeometry a.toNat) (offsetOf s.geom.toGeometry a.toNat) v ++ rest) s)
  | .stopSession =>
    .next (match s.client.session with
      | none => failRoutine .noSession s
      | some p => setTodo (.call (.bufToPage s.cfg.sessionBuf p) :: .setActive none :: rest) s)
  | .finish v => .next (returnRoutine v s)
  | .finishBusy => .next (returnRoutine (.bool (!ready s.cfg (respByte s))) s)
  | .finishByte => .next (returnRoutine (.byte (respByte s)) s)
  | .finishBytes => .next (returnRoutine (.bytes (respBytes s)) s)

/-- Begin a routine: its expansion, or the failure that presents no command. It has not ended yet, so it has no result. -/
def beginRoutine (r : Routine) (s : State) : State :=
  match expand s r with
  | .ok ops => { s with client := { s.client with todo := ops, result := none } }
  | .error f => failRoutine f s

/-- What is left of the client's program. -/
def setProgram (p : List Move) (s : State) : State := { s with client := { s.client with program := p } }

/-- The client's move while no command is in flight: the next action of its routine, else the next thing of its program; with
neither, the run is over for now and the block waits (R230, R244; log 14). DESIGN CHOICE, of the duties of R245: the client's
reading of `RESP` before its next command is no step here (log 30), and raw commands may come during a write session, whose
order only the session routines keep (log 31). -/
def clientMove (s : State) : StepResult :=
  match s.client.todo with
  | op :: rest => clientOp op rest s
  | [] =>
    match s.client.program with
    | .command r :: more => present r (setProgram more s)
    | .routine r :: more => .next (beginRoutine r (setProgram more s))
    | [] => .next s

/-- One step of the block and its client, no reset asserted: the framer while a command is in flight (R135), else the client,
which has no move before (R238; log 10). -/
def advance (s : State) : StepResult :=
  match s.fr.phase with
  | .poll => .next (pollStep s)
  | .body => .next (bodyStep s)
  | .idle => clientMove s

/-- One step with a sample of the reset and power input (R230 to R232). -/
def onPin (p : Pin) (s : State) : StepResult :=
  match p with
  | .run => advance s
  | .reset => .next (resetInput s)
  | .powerCycle => .next (powerCycle s)

/-- The command that is to run next, at the head of the client's program and with nothing before it. -/
def presentNext (i : Instr) (s : State) : State :=
  { s with
    fr := { s.fr with phase := .idle }
    pins := []
    client := { s.client with todo := [], program := .command (.row i) :: s.client.program } }

end Sys2Proof.Machine
end

