-- ==== Sys2Proof/Machine/Step.lean ====
section
/-!
DEFINITION. One step of the machine, and where its next command is placed.
-/

namespace Sys2Proof.Machine

/-- One step. Parameters that break R25 are refused (log 4); else the next sample of the reset and power input decides
(log 15). -/
def step (s : State) : Host.Outcome State Fault Refusal :=
  if s.cfg.legal = false then .refused .illegalParameters
  else
    match s.pins with
    | [] => advance s
    | p :: ps => onPin p { s with pins := ps }

/-- The command of a table word, placed where `step` takes its next command: at the head of the client's program, with no
command in flight, no routine in progress and no reset asserted (log 11). Where the word is no frame of the block, nothing. -/
def State.withFetchWord (s : State) (nbits w : Nat) : State :=
  match decodeTableWord nbits w with
  | some i => presentNext i s
  | none => s

end Sys2Proof.Machine
end

