-- ==== Sys2Proof/Machine/Atomic.lean ====
section
/-!
DEFINITION. The framer as the pseudocode of R131 and R132 writes it: whole frames, and a command as one function of the chip's
answers, which R29 allows. The machine's steps are the micro-steps of R135; that both agree is a claim about the model.
-/

namespace Sys2Proof.Machine

/-- `transfer` each byte of a list, answers ignored. -/
def sendAll : List Byte → State → State
  | [], s => s
  | b :: bs, s => sendAll bs (transfer b s)

/-- `repeat n times: r = transfer(FILL_BYTE)`: the bytes received, and the state after. -/
def receiveAll : Nat → State → List Byte × State
  | 0, s => ([], s)
  | n + 1, s =>
    let later := receiveAll n (transfer s.cfg.fillByte s)
    (chipReply s :: later.1, later.2)

/-- The length of the body frame in transfers (R91). -/
def bodyLength (c : Config) (f : Framer) : Nat := (header c f).length + f.tx.length + f.nrx

/-- `BODY` (R132) and completion (R134): select, everything sent, everything received, unselect, `OK`. -/
def bodyFrame (s : State) : State :=
  let sent := sendAll (header s.cfg s.fr ++ s.fr.tx) (select s)
  let got := receiveAll s.fr.nrx sent
  let rx := s.fr.rx ++ got.1.map (deliver s.fr.cmd)
  complete { unselect got.2 with
    fr := { s.fr with pos := bodyLength s.cfg s.fr + 1, tx := [], nrx := 0, rx := rx } }

/-- One turn of the loop of `WAIT_READY` after its budget test (R131): a whole status frame, `POLLS + 1`, the ready test. -/
def statusFrame (s : State) : State :=
  let asked := transfer s.cfg.opcStatusRead (select s)
  let status := chipReply asked
  { unselect (transfer s.cfg.fillByte asked) with
    polls := s.polls + 1
    fr := { s.fr with phase := phaseAfter s.cfg status, pos := 0, sample := status } }

/-- `WAIT_READY` (R131), at most `fuel` turns of its loop. -/
def waitReady : Nat → State → State
  | 0, s => s
  | n + 1, s =>
    if s.cfg.pollBudget = some s.polls then raise .busTimeout s
    else if (statusFrame s).fr.phase = .body then statusFrame s
    else waitReady n (statusFrame s)

/-- A command from the wait to its end: the wait, then the body unless the wait failed (R132). -/
def runCommand (fuel : Nat) (s : State) : State :=
  if (waitReady fuel s).fr.phase = .body then bodyFrame (waitReady fuel s) else waitReady fuel s

end Sys2Proof.Machine
end

