-- ==== Sys2Proof/Safety.lean ====
section
/-!
DEFINITION. The terms in which claims speak of a run: what crosses the bus, and what a state that a run can reach keeps.
-/

namespace Sys2Proof.Machine

/-! ## What crosses the bus -/

/-- The answer a chip with no stub gives to the `j`-th of the next transfers (from 0). -/
def freeAnswer (s : State) (j : Nat) : Byte := s.answers.getD j (Config.chipAnswer (s.draws + j))

/-- The events of one whole frame (R80) that sends these bytes and receives `answer 0, answer 1, ...`. -/
def frameTrace (sent : List Byte) (answer : Nat → Byte) : List BusEvent :=
  [.sel] ++ sent.mapIdx (fun j b => .xfer b (answer j)) ++ [.unsel]

/-- The events of the first `k` status frames of a wait (R131). -/
def pollTrace (c : Config) (answer : Nat → Byte) : Nat → List BusEvent
  | 0 => []
  | k + 1 => pollTrace c answer k ++ frameTrace [c.opcStatusRead, c.fillByte] (fun j => answer (2 * k + j))

/-- The first `k` status frames from here show busy (R33). -/
def BusyFor (s : State) (k : Nat) : Prop := ∀ j, j < k → ready s.cfg (freeAnswer s (2 * j + 1)) = false

/-- The `k`-th status frame from here is the first that shows ready. -/
def ReadyAtPoll (s : State) (k : Nat) : Prop :=
  1 ≤ k ∧ BusyFor s (k - 1) ∧ ready s.cfg (freeAnswer s (2 * k - 1)) = true

/-- `k` status frames are within the budget (R131). -/
def WithinBudget (s : State) (k : Nat) : Prop := ∀ b, s.cfg.pollBudget = some b → k ≤ b

/-- A machine whose parameters are legal, with no reset to come and with the chip's answers free. -/
def Undisturbed (s : State) : Prop := s.cfg.legal = true ∧ s.pins = [] ∧ s.stub = none

/-- `n` steps of the machine. -/
abbrev runSteps (n : Nat) (s : State) : StepResult := Host.Core.run Sys2Proof.core n s

/-- The bytes a framer still has to send in its frame, in order (R132). -/
def bytesToSend (c : Config) (f : Framer) : List Byte := header c f ++ f.tx ++ List.replicate f.nrx c.fillByte

/-- What the end of a framer command leaves: the framer idle, the bus released, and everything but `FR`, `POLLS`, `RESP`, the
trace and the chip's answers as it was (R134, R205). -/
structure EndsCommand (s u : State) (polls : Nat) (r : Result) (data : List Byte) (events : List BusEvent) : Prop where
  resp : u.resp = some { result := r, data := .bytes data }
  trace : u.trace = s.trace ++ events
  polls : u.polls = polls
  idle : u.fr.phase = .idle
  released : u.sel = false
  geom : u.geom = s.geom
  notEnded : u.ended = s.ended
  params : u.cfg = s.cfg
  client : u.client = s.client
  pins : u.pins = s.pins
  stub : u.stub = s.stub

/-- What the spec says of presenting an address-bearing framer command, by `run` (`exec` of a row, or `present`), in state `s`: the admission checks in the order of
R130 (`opcode` is none for a buffer index with no table entry, and never none for a command with no buffer operand;
`inRange` is its range condition); else it is admitted, waits
for ready (R131), sends one frame with the bytes `sent opcode` (R132), and finishes with `OK` and the bytes `data` makes of the
answers in the body frame (R134), or finishes with `BusTimeout` after the budget's number of status frames, its own frame never
sent (R131, R203). The chip's answers are free (`Undisturbed`), and `k` is the number of the first status frame that shows
ready. -/
structure RunsAsFrame (run : State → StepResult) (s : State) (opcode : Option Byte) (inRange : Prop) (sent : Byte → List Byte)
    (data : (Nat → Byte) → List Byte) : Prop where
  ended : s.ended = true → run s = .next (refuse .ended s)
  notCommitted : s.ended = false → s.geom.valid = false → run s = .next (refuse .notCommitted s)
  badOperand : s.ended = false → s.geom.valid = true → opcode = none → run s = .next (refuse .badOperand s)
  outOfRange : ∀ b, s.ended = false → s.geom.valid = true → opcode = some b → s.cfg.boundsCheck = true → ¬ inRange →
    run s = .next (refuse .outOfRange s)
  runs : ∀ b, s.ended = false → s.geom.valid = true → opcode = some b → (s.cfg.boundsCheck = true → inRange) →
    ∃ f, run s = .next { s with fr := f, polls := 0, resp := none }
      ∧ f.phase = .poll ∧ f.pos = 0 ∧ f.opcode = b ∧ bytesToSend s.cfg f = sent b
      ∧ (Undisturbed s → ∀ k, ReadyAtPoll s k → WithinBudget s k →
          ∃ u, runSteps (4 * k + (sent b).length + 2) { s with fr := f, polls := 0, resp := none } = .next u
            ∧ EndsCommand s u k .ok (data fun j => freeAnswer s (2 * k + j))
                (pollTrace s.cfg (freeAnswer s) k ++ frameTrace (sent b) fun j => freeAnswer s (2 * k + j)))
      ∧ (Undisturbed s → ∀ n, s.cfg.pollBudget = some n → BusyFor s n →
          ∃ u, runSteps (4 * n + 1) { s with fr := f, polls := 0, resp := none } = .next u
            ∧ EndsCommand s u n .busTimeout [] (pollTrace s.cfg (freeAnswer s) n))

/-! ## What every step keeps -/

/-- A frame is open: the framer is past the `select()` of the frame it is sending (R135). -/
def State.inFrame (s : State) : Bool :=
  match s.fr.phase with
  | .idle => false
  | .poll => decide (s.fr.pos ≠ 0)
  | .body => decide (s.fr.pos ≠ 0)

/-- Read a trace from left to right: `SEL` only outside a frame, `XFER` and `UNSEL` only inside one (R27, R80). The answer is
whether the trace ends inside a frame; none where an event is out of place. -/
def scanTrace : Bool → List BusEvent → Option Bool
  | inside, [] => some inside
  | false, .sel :: es => scanTrace true es
  | true, .xfer _ _ :: es => scanTrace true es
  | true, .unsel :: es => scanTrace false es
  | _, _ => none

/-- Chip-select is asserted exactly inside a frame, in the state and in the trace (R27, R133). -/
def BusDiscipline (s : State) : Prop := s.sel = s.inFrame ∧ scanTrace false s.trace = some s.sel

/-- What the registers keep among themselves. -/
structure Coherent (s : State) : Prop where
  /-- A committed geometry is a row of the table (R160). -/
  committedRow : s.geom.valid = true → s.geom.toGeometry ∈ s.cfg.geomTable
  /-- No command is in flight in mode `ENDED` (R26, D16). -/
  endedIdle : s.ended = true → s.fr.phase = .idle
  /-- Without a committed geometry only a status read can be in flight (R130, R201). -/
  uncommittedStatus : s.geom.valid = false → s.fr.phase ≠ .idle → s.fr.cmd = .statusRead
  /-- A status read does not wait (R140), and the wait has four positions (R135). -/
  pollPosition : s.fr.phase = .poll → s.fr.cmd ≠ .statusRead ∧ s.fr.pos ≤ 3
  /-- `RESP` is not valid while a command is in flight (R31). -/
  noResponseInFlight : s.fr.phase ≠ .idle → s.resp = none
  /-- The wait has not sent more status frames than the budget (R131), and inside one there was budget left. -/
  pollsWithinBudget : ∀ b, s.cfg.pollBudget = some b → s.polls ≤ b ∧ (s.fr.phase = .poll → s.fr.pos ≠ 0 → s.polls < b)

/-- The trace ends with a whole status frame (R81), and its status byte shows ready. -/
def endsReady (c : Config) (t : List BusEvent) : Prop :=
  ∃ before ignored r, t = before ++ [.sel, .xfer c.opcStatusRead ignored, .xfer c.fillByte r, .unsel] ∧ ready c r = true

/-- Where the wait and the body stand in the trace: inside the wait the trace ends with as much of a status frame as the position
says, the latched byte its status byte (log 7); and a body frame begins only right after a status frame that shows ready (R68,
R131). -/
def ReadyBeforeBody (s : State) : Prop :=
  (s.fr.phase = .poll →
    (s.fr.pos = 1 → ∃ before, s.trace = before ++ [.sel])
    ∧ (s.fr.pos = 2 → ∃ before ignored, s.trace = before ++ [.sel, .xfer s.cfg.opcStatusRead ignored])
    ∧ (3 ≤ s.fr.pos → ∃ before ignored,
        s.trace = before ++ [.sel, .xfer s.cfg.opcStatusRead ignored, .xfer s.cfg.fillByte s.fr.sample]))
    ∧ (s.fr.phase = .body → s.fr.pos = 0 → s.fr.cmd ≠ .statusRead → endsReady s.cfg s.trace)

/-- The memory of the chip stub has its canonical form. -/
def StubCanonical (s : State) : Prop := ∀ k, s.stub = some k → k.array.wf = true ∧ k.buffers.wf = true

/-- No reset and no power cycle in this step. -/
def NoReset (s : State) : Prop := s.pins.head? ≠ some .reset ∧ s.pins.head? ≠ some .powerCycle

/-! ## The chip stub, frame by frame (R192) -/

/-- A whole frame sent to the stub. -/
def Stub.frame (c : Config) (bytes : List Byte) (k : Stub) : Stub := (bytes.foldl (Stub.receive c) k.select).unselect c

/-- The stub once its operation has finished. -/
def Stub.settled (k : Stub) : Stub := { k with busy := 0 }

end Sys2Proof.Machine
end

