-- ==== Sys2Proof/Certificates/Slice0/Obligations.lean ====
section
/-!
DEFINITION. The statements for the provers. In docstrings S, W, T are the committed page size, shift count and page count.
-/

open Sys2Proof Sys2Proof.Machine

/-! ## Reset and the registers -/

/-- R39, R230: what the spec gives for reset. The values of the other registers are the model's choice (log 6). -/
def Obligations.ResetLeavesIdleUncommitted : Prop :=
  State.reset.geom.valid = false ∧ State.reset.ended = false ∧ State.reset.sel = false ∧ State.reset.fr.phase = .idle
    ∧ State.reset.polls = 0 ∧ State.reset.resp = none ∧ State.reset.client.session = none
    ∧ State.reset.mode = .uncommitted

/-- The reset state meets every invariant stated below. -/
def Obligations.ResetMeetsTheInvariants : Prop :=
  BusDiscipline State.reset ∧ Coherent State.reset ∧ ReadyBeforeBody State.reset ∧ StubCanonical State.reset
    ∧ State.reset.cfg.legal = true

/-- R230, R231, from any state, inside a frame too: the reset input puts every register of the block that R39 gives a value at
that value, leaves no response, and performs one `UNSEL` exactly when chip-select is asserted. -/
def Obligations.ResetInputReleasesTheBus : Prop :=
  ∀ (s : State) (ps : List Pin), s.cfg.legal = true → s.pins = .reset :: ps →
    ∃ t, step s = .next t ∧ t.geom.valid = false ∧ t.ended = false ∧ t.sel = false ∧ t.fr.phase = .idle ∧ t.polls = 0
      ∧ t.resp = none ∧ t.client.session = none ∧ t.cfg = s.cfg ∧ t.pins = ps
      ∧ t.trace = s.trace ++ (if s.sel = true then [.unsel] else [])

/-- R232: a power cycle is a reset without a bus event; the chip stub's array stays. -/
def Obligations.PowerCycleHasNoBusEvent : Prop :=
  ∀ (s : State) (ps : List Pin), s.cfg.legal = true → s.pins = .powerCycle :: ps →
    ∃ t, step s = .next t ∧ t.geom.valid = false ∧ t.ended = false ∧ t.sel = false ∧ t.fr.phase = .idle ∧ t.polls = 0
      ∧ t.resp = none ∧ t.client.session = none ∧ t.cfg = s.cfg ∧ t.trace = s.trace
      ∧ (∀ k, s.stub = some k → ∃ k', t.stub = some k' ∧ k'.array = k.array)

/-- The default table meets the five constraints of R25, and parameters with a row that breaks one are refused at every step: that
"a model refuses a table that does not" means this is the model's choice (log 4). -/
def Obligations.IllegalTablesAreRefused : Prop :=
  (∀ g ∈ Geometry.defaultTable, 0 < g.pageByteSize ∧ g.pageByteSize ≤ 2 ^ g.pageBitWidth
      ∧ g.totalPages * 2 ^ g.pageBitWidth ≤ 2 ^ 24 ∧ g.totalPages % 8 = 0 ∧ 1 ≤ g.totalPages)
  ∧ ∀ (s : State) (g : Geometry), g ∈ s.cfg.geomTable →
      ¬ (0 < g.pageByteSize ∧ g.pageByteSize ≤ 2 ^ g.pageBitWidth ∧ g.totalPages * 2 ^ g.pageBitWidth ≤ 2 ^ 24
        ∧ g.totalPages % 8 = 0 ∧ 1 ≤ g.totalPages) →
      step s = .refused .illegalParameters

/-! ## The translator as commands -/

/-- R111 (and R110, R206 for its failures). -/
def Obligations.PageOfDividesByPageSize : Prop :=
  ∀ (a : Addr) (s : State),
    (s.ended = true → exec (.pageof a) s = .next (refuse .ended s))
    ∧ (s.ended = false → s.geom.valid = false → exec (.pageof a) s = .next (refuse .notCommitted s))
    ∧ (s.ended = false → s.geom.valid = true →
        exec (.pageof a) s = .next { s with resp := some { result := .ok, data := .nat (a.toNat / s.geom.pageByteSize) } })

/-- R112: the remainder, which for a legal geometry is below S and so below 2^W. -/
def Obligations.OffsetOfIsTheRemainder : Prop :=
  ∀ (a : Addr) (s : State),
    (s.ended = true → exec (.offsetof a) s = .next (refuse .ended s))
    ∧ (s.ended = false → s.geom.valid = false → exec (.offsetof a) s = .next (refuse .notCommitted s))
    ∧ (s.ended = false → s.geom.valid = true →
        exec (.offsetof a) s = .next { s with resp := some { result := .ok, data := .nat (a.toNat % s.geom.pageByteSize) } })
    ∧ (s.geom.toGeometry.legal = true → a.toNat % s.geom.pageByteSize < s.geom.pageByteSize
        ∧ a.toNat % s.geom.pageByteSize < 2 ^ s.geom.pageBitWidth)

/-- R113. -/
def Obligations.LinearOfMultipliesAndAdds : Prop :=
  ∀ (p o : Nat) (s : State),
    (s.ended = true → exec (.linearof p o) s = .next (refuse .ended s))
    ∧ (s.ended = false → s.geom.valid = false → exec (.linearof p o) s = .next (refuse .notCommitted s))
    ∧ (s.ended = false → s.geom.valid = true →
        exec (.linearof p o) s = .next { s with resp := some { result := .ok, data := .nat (p * s.geom.pageByteSize + o) } })

/-- R115, R116. -/
def Obligations.PackShiftsOrsAndTruncates : Prop :=
  ∀ (p o : Nat) (s : State),
    (s.ended = true → exec (.pack p o) s = .next (refuse .ended s))
    ∧ (s.ended = false → s.geom.valid = false → exec (.pack p o) s = .next (refuse .notCommitted s))
    ∧ (s.ended = false → s.geom.valid = true →
        exec (.pack p o) s =
          .next { s with resp := some { result := .ok, data := .nat (((p <<< s.geom.pageBitWidth) ||| o) % 2 ^ 24) } })

/-- R117: it needs no committed geometry. -/
def Obligations.SplitGivesThreeBytes : Prop :=
  ∀ (w : Wire) (s : State),
    (s.ended = true → exec (.split3 w) s = .next (refuse .ended s))
    ∧ (s.ended = false →
        exec (.split3 w) s = .next { s with
          resp := some ⟨.ok, .triple (BitVec.ofNat 8 (w.toNat / 2 ^ 16 % 2 ^ 8)) (BitVec.ofNat 8 (w.toNat / 2 ^ 8 % 2 ^ 8))
            (BitVec.ofNat 8 (w.toNat % 2 ^ 8))⟩ })

/-- R118: the whole path, from the linear address to the bytes in the order they are sent. -/
def Obligations.TranslateGivesTheAddressBytes : Prop :=
  ∀ (a : Addr) (s : State),
    (s.ended = true → exec (.xlate a) s = .next (refuse .ended s))
    ∧ (s.ended = false → s.geom.valid = false → exec (.xlate a) s = .next (refuse .notCommitted s))
    ∧ (s.ended = false → s.geom.valid = true → ∀ w : Wire,
        w.toNat = (((a.toNat / s.geom.pageByteSize) <<< s.geom.pageBitWidth) ||| (a.toNat % s.geom.pageByteSize)) % 2 ^ 24 →
        exec (.xlate a) s = .next { s with
          resp := some ⟨.ok, .triple (BitVec.ofNat 8 (w.toNat / 2 ^ 16 % 2 ^ 8)) (BitVec.ofNat 8 (w.toNat / 2 ^ 8 % 2 ^ 8))
            (BitVec.ofNat 8 (w.toNat % 2 ^ 8))⟩ })

/-! ## The arithmetic of the translator -/

/-- R114: both round trips, for every address and every legal geometry. -/
def Obligations.TranslationRoundTrips : Prop :=
  ∀ g : Geometry, g.legal = true →
    (∀ a : Nat, pageOf g a * g.pageByteSize + offsetOf g a = a)
    ∧ ∀ p o : Nat, o < g.pageByteSize → pageOf g (linearOf g p o) = p ∧ offsetOf g (linearOf g p o) = o

/-- R121's witness: the divisor is the real page size, so address 256 of a 264-byte page is (0, 256), not (1, 0). -/
def Obligations.PageSizeIsNoPowerOfTwo : Prop :=
  pageOf Geometry.at45db041 256 = 0 ∧ offsetOf Geometry.at45db041 256 = 256
    ∧ ∀ g ∈ Geometry.defaultTable, ∀ n : Nat, g.pageByteSize ≠ 2 ^ n

/-- R122, R123: the wire address depends only on the low 24 - W bits of the page and the low 24 bits of the offset; for an
offset inside the page the OR is an addition and the two fields read back. -/
def Obligations.PackingFieldsDoNotOverlap : Prop :=
  ∀ (g : Geometry) (p o : Nat), g.legal = true →
    wireOf g p o = wireOf g (p % 2 ^ (24 - g.pageBitWidth)) (o % 2 ^ 24)
    ∧ (o < g.pageByteSize →
        packed g p o = p * 2 ^ g.pageBitWidth + o
        ∧ (wireOf g p o).toNat % 2 ^ g.pageBitWidth = o
        ∧ (wireOf g p o).toNat / 2 ^ g.pageBitWidth = p % 2 ^ (24 - g.pageBitWidth))

/-- R120: exactly which linear addresses share a wire address when nothing checks their range. -/
def Obligations.AliasClassesAreExact : Prop :=
  ∀ (g : Geometry) (a b : Addr), g.legal = true →
    (wireOfLinear g a = wireOfLinear g b ↔
      offsetOf g a.toNat = offsetOf g b.toNat
        ∧ pageOf g a.toNat % 2 ^ (24 - g.pageBitWidth) = pageOf g b.toNat % 2 ^ (24 - g.pageBitWidth))

/-- R124: on the valid range nothing is truncated and no two addresses share a wire address. -/
def Obligations.InRangeTranslationIsInjective : Prop :=
  ∀ (g : Geometry) (a b : Addr), g.legal = true → a.toNat < g.totalPages * g.pageByteSize →
    b.toNat < g.totalPages * g.pageByteSize →
    (wireOfLinear g a).toNat = packed g (pageOf g a.toNat) (offsetOf g a.toNat)
    ∧ (wireOfLinear g a = wireOfLinear g b → a = b)

/-- R62: the inversion of a data byte is `255 - v`, and is undone by itself. -/
def Obligations.InversionIsItsOwnInverse : Prop :=
  ∀ b : Byte, (invert b).toNat = 255 - b.toNat ∧ invert (invert b) = b

/-- R173: which density fields match an index; an even field matches the index of the odd field below it. -/
def Obligations.DensityMatchesTwoFields : Prop :=
  ∀ (b : Byte) (e : Nat), densityIndex b = some e ↔ densityField b = 2 * e + 3 ∨ densityField b = 2 * e + 4

/-! ## The control commands -/

/-- R160, with its failures in their order. -/
def Obligations.CommitWritesTheTableRow : Prop :=
  ∀ (d : Nat) (s : State),
    (s.ended = true → exec (.commitGeometry d) s = .next (refuse .ended s))
    ∧ (s.ended = false → 7 ≤ d → exec (.commitGeometry d) s = .next (refuse .badOperand s))
    ∧ (s.ended = false → d < 7 → s.geom.valid = true → exec (.commitGeometry d) s = .next (refuse .alreadyCommitted s))
    ∧ (∀ row, s.ended = false → d < 7 → s.geom.valid = false → s.cfg.geomTable[d]? = some row →
        exec (.commitGeometry d) s =
          .next { s with
            geom := { pageBitWidth := row.pageBitWidth, pageByteSize := row.pageByteSize, totalPages := row.totalPages,
                      valid := true }
            resp := some { result := .ok, data := .bytes [] } })

/-- R161: `END` sets `ENDED` and nothing else; after it every command is refused with `Ended` and changes only the response. -/
def Obligations.EndRefusesEverythingAfter : Prop :=
  ∀ s : State,
    (s.ended = false →
      exec .endBlock s = .next { s with ended := true, resp := some { result := .ok, data := .bytes [] } })
    ∧ (s.ended = true → ∀ i : Instr,
      exec i s = .next { s with resp := some { result := .ended, data := .bytes [] } })

/-! ## The framer commands on the bus -/

/-- R140: admitted in any mode but ENDED, without a wait; four steps send one status frame, and the byte comes back as
received. That `POLLS` is 0 afterwards is the model's reading (log 9). -/
def Obligations.StatusReadReturnsTheByteAsReceived : Prop :=
  ∀ s : State,
    (s.ended = true → exec .statusRead s = .next (refuse .ended s))
    ∧ (s.ended = false →
        ∃ f, exec .statusRead s = .next { s with fr := f, polls := 0, resp := none }
          ∧ f.phase = .body ∧ f.pos = 0 ∧ bytesToSend s.cfg f = [s.cfg.opcStatusRead, s.cfg.fillByte]
          ∧ (Undisturbed s →
              ∃ u, runSteps 4 { s with fr := f, polls := 0, resp := none } = .next u
                ∧ EndsCommand s u 0 .ok [freeAnswer s 1]
                    (frameTrace [s.cfg.opcStatusRead, s.cfg.fillByte] (freeAnswer s))))

/-- R141, with R130 to R134 of it: opcode, the three bytes of `XLATE a`, 4 dummy bytes, `n` fill bytes whose answers come back
inverted. -/
def Obligations.ReadArrayReturnsInvertedBytes : Prop :=
  ∀ (a : Addr) (n : Nat) (s : State),
    RunsAsFrame (exec (.readArray a n)) s (some s.cfg.opcReadArray)
      (a.toNat < s.geom.totalPages * s.geom.pageByteSize ∧ a.toNat + n ≤ s.geom.totalPages * s.geom.pageByteSize)
      (fun b => [b] ++ wireBytes (wireOf s.geom.toGeometry (a.toNat / s.geom.pageByteSize) (a.toNat % s.geom.pageByteSize))
        ++ List.replicate 4 s.cfg.fillByte ++ List.replicate n s.cfg.fillByte)
      (fun answer => (List.range n).map fun k => ~~~ answer (8 + k))

/-- R143, both rows, and a request with any buffer index (log 13): opcode of the buffer, the address of (page 0, offset o), the
inverted bytes; nothing is received. A buffer index outside `[0, N_BUFFERS)` has no entry in the command table (R89). -/
def Obligations.BufWriteSendsInvertedBytes : Prop :=
  ∀ (o : Nat) (bytes : List Byte) (s : State),
    RunsAsFrame (exec (.bufWriteBuf0 o bytes)) s (if 0 < s.cfg.nBuffers then s.cfg.opcBufWrite[0]? else none)
      (o < s.geom.pageByteSize ∧ o + bytes.length ≤ s.geom.pageByteSize)
      (fun b => [b] ++ wireBytes (wireOf s.geom.toGeometry 0 o) ++ bytes.map (fun v => ~~~ v)) (fun _ => [])
    ∧ RunsAsFrame (exec (.bufWriteBuf1 o bytes)) s (if 1 < s.cfg.nBuffers then s.cfg.opcBufWrite[1]? else none)
      (o < s.geom.pageByteSize ∧ o + bytes.length ≤ s.geom.pageByteSize)
      (fun b => [b] ++ wireBytes (wireOf s.geom.toGeometry 0 o) ++ bytes.map (fun v => ~~~ v)) (fun _ => [])
    ∧ ∀ buf, RunsAsFrame (present (.bufWrite buf o bytes)) s (if buf < s.cfg.nBuffers then s.cfg.opcBufWrite[buf]? else none)
      (o < s.geom.pageByteSize ∧ o + bytes.length ≤ s.geom.pageByteSize)
      (fun b => [b] ++ wireBytes (wireOf s.geom.toGeometry 0 o) ++ bytes.map (fun v => ~~~ v)) (fun _ => [])

/-- R144, both rows, and a request with any buffer index (log 13): opcode of the buffer, the address of (page p, offset 0), no
payload. -/
def Obligations.PageToBufSendsThePageAddress : Prop :=
  ∀ (p : Nat) (s : State),
    RunsAsFrame (exec (.pageToBufBuf0 p)) s (if 0 < s.cfg.nBuffers then s.cfg.opcPageToBuf[0]? else none) (p < s.geom.totalPages)
      (fun b => [b] ++ wireBytes (wireOf s.geom.toGeometry p 0)) (fun _ => [])
    ∧ RunsAsFrame (exec (.pageToBufBuf1 p)) s (if 1 < s.cfg.nBuffers then s.cfg.opcPageToBuf[1]? else none) (p < s.geom.totalPages)
      (fun b => [b] ++ wireBytes (wireOf s.geom.toGeometry p 0)) (fun _ => [])
    ∧ ∀ buf, RunsAsFrame (present (.pageToBuf buf p)) s (if buf < s.cfg.nBuffers then s.cfg.opcPageToBuf[buf]? else none)
      (p < s.geom.totalPages) (fun b => [b] ++ wireBytes (wireOf s.geom.toGeometry p 0)) (fun _ => [])

/-- R145, both rows, and a request with any buffer index (log 13). -/
def Obligations.BufToPageSendsThePageAddress : Prop :=
  ∀ (p : Nat) (s : State),
    RunsAsFrame (exec (.bufToPageBuf0 p)) s (if 0 < s.cfg.nBuffers then s.cfg.opcBufToPage[0]? else none) (p < s.geom.totalPages)
      (fun b => [b] ++ wireBytes (wireOf s.geom.toGeometry p 0)) (fun _ => [])
    ∧ RunsAsFrame (exec (.bufToPageBuf1 p)) s (if 1 < s.cfg.nBuffers then s.cfg.opcBufToPage[1]? else none) (p < s.geom.totalPages)
      (fun b => [b] ++ wireBytes (wireOf s.geom.toGeometry p 0)) (fun _ => [])
    ∧ ∀ buf, RunsAsFrame (present (.bufToPage buf p)) s (if buf < s.cfg.nBuffers then s.cfg.opcBufToPage[buf]? else none)
      (p < s.geom.totalPages) (fun b => [b] ++ wireBytes (wireOf s.geom.toGeometry p 0)) (fun _ => [])

/-- R146: the address of page 8 * i. -/
def Obligations.BlockEraseSendsTheFirstPageOfTheBlock : Prop :=
  ∀ (i : Nat) (s : State),
    RunsAsFrame (exec (.blockErase i)) s (some s.cfg.opcBlockErase) (i < s.geom.totalPages / 8)
      (fun b => [b] ++ wireBytes (wireOf s.geom.toGeometry (8 * i) 0)) (fun _ => [])

/-- R86, R88, R91: whatever a presented command loads into the framer is exactly its encoding, of the length its format
gives. -/
def Obligations.TheFrameSentIsTheEncoding : Prop :=
  ∀ (i : Instr) (s t : State), s.fr.phase = .idle → exec i s = .next t → t.fr.phase ≠ .idle →
    bytesToSend t.cfg t.fr = encode s.cfg s.geom.toGeometry i
    ∧ (encode s.cfg s.geom.toGeometry i).length = i.frameLength

/-! ## Encoding -/

/-- Words written out from the encodings of R81 to R84 and R88 decode to their rows. That a word is numbered and completed with
zeros so, and read with the default parameters and the AT45DB041 geometry, is the model's choice (log 12); the opcode values are
the spec's own defaults from general knowledge (log 3). -/
def Obligations.TableWordsDecodeToTheirRows : Prop :=
  decodeTableWord 8 0xD7 = some .statusRead
    ∧ decodeTableWord 8 0xE8 = some (.readArray 0 0)
    ∧ decodeTableWord 8 0x84 = some (.bufWriteBuf0 0 [])
    ∧ decodeTableWord 8 0x87 = some (.bufWriteBuf1 0 [])
    ∧ decodeTableWord 32 0x001E0053 = some (.pageToBufBuf0 15)
    ∧ decodeTableWord 32 0x00FE0F55 = some (.pageToBufBuf1 2047)
    ∧ decodeTableWord 32 0x001E0083 = some (.bufToPageBuf0 15)
    ∧ decodeTableWord 32 0x00020086 = some (.bufToPageBuf1 1)
    ∧ decodeTableWord 32 0x00F00F50 = some (.blockErase 255)

/-- Decode and encode agree (the block has no decoder: it is the model's, log 12): for all parameters with nine distinct opcodes, every legal geometry and every command its frame
determines, the decoder reads the command back from its frame with every operand. -/
def Obligations.DecodeInvertsEncode : Prop :=
  ∀ (c : Config) (g : Geometry) (i : Instr), c.opcodesDistinct = true → g.legal = true → i.encodable g = true →
    decode c g (encode c g i) = .ok i

/-! ## The step -/

/-- With no reset asserted, no command in flight and no routine in progress, the step presents the next command of the
client's program: it is `exec` of that command, the program shortened by it. And a table word that decodes is run by the very
next step. How a program comes to run is the model's choice (log 11). -/
def Obligations.StepRunsThePresentedCommand : Prop :=
  (∀ (s : State) (i : Instr) (rest : List Move), s.cfg.legal = true → s.pins = [] → s.fr.phase = .idle → s.client.todo = [] →
    s.client.program = .command (.row i) :: rest →
    step s = exec i { s with client := { s.client with program := rest } })
  ∧ ∀ (s : State) (nbits w : Nat) (i : Instr), s.cfg.legal = true → decodeTableWord nbits w = some i →
    step (s.withFetchWord nbits w) =
      exec i { s with fr := { s.fr with phase := .idle }, pins := [], client := { s.client with todo := [] } }

/-- No step stops: with legal parameters every state has a next state, with others the step is refused by name
(log 4). -/
def Obligations.EveryStepAnswers : Prop :=
  ∀ s : State, (s.cfg.legal = true → ∃ t, step s = .next t) ∧ (s.cfg.legal = false → step s = .refused .illegalParameters)

/-- The bus trace only grows, by at most one event a step (R3, R135; that a step is one micro-step of R135 is log 1); the
parameters never change (R38, R245); one sample of the reset and power input is consumed (log 15). -/
def Obligations.TraceGrowsByAtMostOneEvent : Prop :=
  ∀ s t : State, step s = .next t →
    (∃ es : List BusEvent, es.length ≤ 1 ∧ t.trace = s.trace ++ es) ∧ t.cfg = s.cfg ∧ t.pins = s.pins.tail

/-- R238 and the model's reading of it (log 10): while a command is in flight the client does nothing, and `GEOM` and `ENDED`
stay (R134). -/
def Obligations.ClientWaitsWhileACommandIsInFlight : Prop :=
  ∀ s t : State, step s = .next t → NoReset s → s.fr.phase ≠ .idle →
    t.client = s.client ∧ t.geom = s.geom ∧ t.ended = s.ended

/-- R23: once committed, `GEOM` keeps every field until a reset, and a reset takes it back; before that, it changes only to a
row of the table; and before a commit no read or write runs, whatever the command's operands. -/
def Obligations.GeometryIsImmutableOnceSet : Prop :=
  (∀ s t : State, step s = .next t → NoReset s → s.geom.valid = true → t.geom = s.geom)
  ∧ (∀ s t : State, step s = .next t → ¬ NoReset s → t.geom.valid = false)
  ∧ (∀ s t : State, step s = .next t → t.geom ≠ s.geom → NoReset s →
      s.geom.valid = false ∧ t.geom.valid = true ∧ t.geom.toGeometry ∈ s.cfg.geomTable)
  ∧ (∀ (s : State) (i : Instr), s.ended = false → s.geom.valid = false → i ≠ .statusRead → i ≠ .endBlock →
      (∀ d, i ≠ .commitGeometry d) → (∀ w, i ≠ .split3 w) → exec i s = .next (refuse .notCommitted s))

/-- R161, over whole steps: in mode ENDED, and with no reset, nothing crosses the bus and the mode stays. -/
def Obligations.EndedBlockIsSilent : Prop :=
  ∀ s t : State, Coherent s → s.ended = true → NoReset s → step s = .next t →
    t.trace = s.trace ∧ t.sel = s.sel ∧ t.ended = true ∧ t.geom = s.geom ∧ t.fr = s.fr

/-! ## The invariants -/

/-- R27, R133: every step keeps chip-select asserted exactly inside a frame; and, but for a power cycle (which R232 gives no
event), the trace well framed. -/
def Obligations.StepKeepsBusDiscipline : Prop :=
  ∀ s t : State, step s = .next t →
    (s.sel = s.inFrame → t.sel = t.inFrame)
    ∧ (s.pins.head? ≠ some .powerCycle → BusDiscipline s → BusDiscipline t)

/-- R26, R30, R31, R130, R160: every step keeps what the registers keep among themselves. -/
def Obligations.StepKeepsCoherence : Prop :=
  ∀ s t : State, Coherent s → step s = .next t → Coherent t

/-- R68: every step keeps that a body frame other than a status read's begins only right after a whole status frame that shows
ready, and that inside the wait the trace ends with the part of the status frame sent so far, its status byte in the latch. The
latch is the model's (log 7). -/
def Obligations.StepKeepsReadyBeforeBody : Prop :=
  ∀ s t : State, ReadyBeforeBody s → step s = .next t → ReadyBeforeBody t

/-- Every step keeps the canonical form of the chip stub's memory (the stub is PRESUMED, log 21; the form is the model's, log 22). -/
def Obligations.StepKeepsStubMemoryCanonical : Prop :=
  ∀ s t : State, StubCanonical s → step s = .next t → StubCanonical t

/-! ## Refinement and liveness -/

/-- R29, R131, R132, R135: for every answer of the chip, with a stub or without, the micro-steps of an address-bearing command
lead to exactly the state that the pseudocode of `WAIT_READY` and `BODY` gives as one function, within the longest run of
R240. -/
def Obligations.MicroStepsRefineThePseudocode : Prop :=
  ∀ (s : State) (b : Nat), s.cfg.legal = true → s.pins = [] → s.cfg.pollBudget = some b → s.fr.phase = .poll → s.fr.pos = 0 →
    s.polls ≤ b →
    ∃ n, n ≤ 4 * (b - s.polls) + bodyLength s.cfg s.fr + 2 ∧ runSteps n s = .next (runCommand (b - s.polls + 1) s)
      ∧ (runCommand (b - s.polls + 1) s).fr.phase = .idle

/-- R240, with no reset to come: with `INF` the wait goes on as long as the chip shows busy, for any number of status frames; with
a finite budget every command in flight finishes within the budget's status frames and one body frame. -/
def Obligations.OnlyAnInfiniteBudgetHangs : Prop :=
  (∀ (s : State) (k n : Nat), Undisturbed s → s.cfg.pollBudget = none → s.fr.phase = .poll → s.fr.pos = 0 → BusyFor s k →
    n ≤ 4 * k → ∃ u, runSteps n s = .next u ∧ u.fr.phase = .poll)
  ∧ ∀ (s : State) (b : Nat), s.cfg.legal = true → s.pins = [] → Coherent s → s.cfg.pollBudget = some b → s.fr.phase ≠ .idle →
    ∃ n u, n ≤ 4 * b + bodyLength s.cfg s.fr + 2 ∧ runSteps n s = .next u ∧ u.fr.phase = .idle

/-! ## The client and the chip stub -/

/-- R177, R178, R179, R210: `start` while a session is active is `SessionActive`; a session write or `stop` while idle is
`NoSession`; no command is presented, only the client changes. The actions are the model's (log 17). -/
def Obligations.SessionMisuseFailsFast : Prop :=
  ∀ (s : State) (rest : List ClientOp) (a : Addr) (v : Byte), s.cfg.legal = true → s.pins = [] → s.fr.phase = .idle →
    (∀ p, s.client.session = some p → s.client.todo = .startSession a :: rest →
      step s = .next { s with client := { s.client with todo := [], result := some (.failed .sessionActive) } })
    ∧ (s.client.session = none → s.client.todo = .sessionByte a v :: rest →
      step s = .next { s with client := { s.client with todo := [], result := some (.failed .noSession) } })
    ∧ (s.client.session = none → s.client.todo = .stopSession :: rest →
      step s = .next { s with client := { s.client with todo := [], result := some (.failed .noSession) } })

/-- R177, R178, R179, R181, R239: `start` clears the buffer, fetches the page and marks it active, in this order; a session write
to another page than the active one programs the active page and fetches the new one before the byte is written, and to the
active page it writes at once; `stop` programs the active page and clears the mark. Only the client changes, until a command is
presented. The actions are the model's, and so is what they do before a commit (log 17). -/
def Obligations.PageCrossingFlushesThenFetches : Prop :=
  ∀ (s : State) (rest : List ClientOp) (a : Addr) (v : Byte) (active target : Nat), s.cfg.legal = true → s.pins = [] →
    s.fr.phase = .idle → target = a.toNat / s.geom.pageByteSize →
    (s.client.session = none → s.client.todo = .startSession a :: rest →
      step s = .next { s with client := { s.client with
        todo := .call (.bufWrite s.cfg.sessionBuf 0 (List.replicate s.geom.pageByteSize (~~~ s.cfg.erasedWire)))
          :: .call (.pageToBuf s.cfg.sessionBuf target) :: .setActive (some target) :: rest } })
    ∧ (s.client.session = some active → s.client.todo = .sessionByte a v :: rest → target = active →
      step s = .next { s with client := { s.client with
        todo := .call (.bufWrite s.cfg.sessionBuf (a.toNat % s.geom.pageByteSize) [v]) :: rest } })
    ∧ (s.client.session = some active → s.client.todo = .sessionByte a v :: rest → target ≠ active →
      step s = .next { s with client := { s.client with
        todo := .call (.bufToPage s.cfg.sessionBuf active) :: .call (.pageToBuf s.cfg.sessionBuf target)
          :: .setActive (some target) :: .call (.bufWrite s.cfg.sessionBuf (a.toNat % s.geom.pageByteSize) [v]) :: rest } })
    ∧ (s.client.session = some active → s.client.todo = .stopSession :: rest →
      step s = .next { s with client := { s.client with
        todo := .call (.bufToPage s.cfg.sessionBuf active) :: .setActive none :: rest } })
    ∧ (∀ p, s.client.todo = .setActive p :: rest →
      step s = .next { s with client := { s.client with session := p, todo := rest } })

/-- R170: a routine whose command finishes with a result other than `OK` stops with that result and undoes nothing; and so does
`initialize`, which then returns false (R172, log 18). The actions are the model's (log 17). -/
def Obligations.RoutineStopsAtAFailure : Prop :=
  ∀ (s : State) (rest : List ClientOp) (r : Result) (d : RespData), s.cfg.legal = true → s.pins = [] → s.fr.phase = .idle →
    s.resp = some { result := r, data := d } → r ≠ .ok →
    (s.client.todo = .check :: rest →
      step s = .next { s with client := { s.client with todo := [], result := some (.failed (.code r)) } })
    ∧ (s.client.todo = .checkDetect :: rest →
      step s = .next { s with client := { s.client with todo := [], result := some (.returned (.bool false)) } })

/-- R172: the detection commits a geometry only for a ready status byte whose density index is the expected one. A first byte of 0
ends the attempt, any other begins the inner poll; from a ready byte that matches nothing it goes on to the next attempt; from
a byte that is not ready it reads the status again, or goes on to the next attempt when the budget is spent (D30). The actions
are the model's (log 17). -/
def Obligations.DetectionCommitsOnlyAMatch : Prop :=
  ∀ (s : State) (rest : List ClientOp) (left polls e : Nat) (b : Byte), s.cfg.legal = true → s.pins = [] →
    s.fr.phase = .idle → s.resp = some { result := .ok, data := .bytes [b] } →
    (s.client.todo = .detectFirst left e :: rest →
      step s = .next { s with client := { s.client with
        todo := (if b = 0 then .detect left e else .detectPoll left 0 e) :: rest } })
    ∧ (s.client.todo = .detectPoll left polls e :: rest →
      (b.getLsbD s.cfg.readyBit = true → densityIndex b = some e → step s = exec (.commitGeometry e)
        { s with client := { s.client with todo := .checkDetect :: .finish (.bool true) :: rest } })
      ∧ (b.getLsbD s.cfg.readyBit = true → densityIndex b ≠ some e →
        step s = .next { s with client := { s.client with todo := .detect left e :: rest } })
      ∧ (b.getLsbD s.cfg.readyBit = false → s.cfg.pollBudget ≠ some polls → step s = exec .statusRead
        { s with client := { s.client with todo := .checkDetect :: .detectPoll left (polls + 1) e :: rest } })
      ∧ (b.getLsbD s.cfg.readyBit = false → s.cfg.pollBudget = some polls →
        step s = .next { s with client := { s.client with todo := .detect left e :: rest } })
      ∧ ∀ t, ¬ (b.getLsbD s.cfg.readyBit = true ∧ densityIndex b = some e) → step s = .next t → t.geom = s.geom)

/-- R172, R173, the source's detection rejection: when each of the 10 attempts reads a status byte of 0 (no chip), or a ready one
of another density, `initialize` returns false after 10 status frames and leaves `GEOM` as it was. The steps are the model's (log 17). -/
def Obligations.DetectionRejectsAnotherDensity : Prop :=
  ∀ (s : State) (e : Nat) (more : List Move), Undisturbed s → s.fr.phase = .idle → s.ended = false → s.client.todo = [] →
    s.client.program = .routine (.detectAndCommit e) :: more →
    (∀ j, j < 10 → freeAnswer s (2 * j + 1) = 0
      ∨ ready s.cfg (freeAnswer s (2 * j + 1)) = true ∧ densityIndex (freeAnswer s (2 * j + 1)) ≠ some e) →
    ∃ n u, runSteps n s = .next u ∧ u.client.todo = [] ∧ u.client.program = more
      ∧ u.client.result = some (.returned (.bool false)) ∧ u.geom = s.geom
      ∧ u.trace = s.trace ++ pollTrace s.cfg (freeAnswer s) 10

/-- R176: `readBytes` in range returns the bytes of the array run, inverted back, once the chip shows ready within the budget.
The steps are the model's (log 17). -/
def Obligations.ReadBytesReturnsTheArrayRun : Prop :=
  ∀ (s : State) (a : Addr) (n k : Nat) (more : List Move), Undisturbed s → s.fr.phase = .idle → s.ended = false →
    s.geom.valid = true → s.client.todo = [] → s.client.program = .routine (.readBytes a n) :: more →
    a.toNat < s.geom.totalPages * s.geom.pageByteSize → a.toNat + n ≤ s.geom.totalPages * s.geom.pageByteSize →
    ReadyAtPoll s k → WithinBudget s k →
    ∃ u, runSteps (4 * k + n + 14) s = .next u ∧ u.client.todo = [] ∧ u.client.program = more
      ∧ u.client.result = some (.returned (.bytes ((List.range n).map fun j => ~~~ freeAnswer s (2 * k + 8 + j))))
      ∧ u.geom = s.geom ∧ u.sel = false

/-- R185, R186: a sized erase first checks its address and every block it would erase; only if all exist it presents them, in
ascending order, else it fails with `OutOfRange` and presents nothing; with `BOUNDS_CHECK` false it presents them unchecked. The
actions are the model's, and so is what it does before a commit (log 17). -/
def Obligations.SizedEraseChecksBeforeItErases : Prop :=
  ∀ (s : State) (r : Routine) (more : List Move) (a : Addr) (size : Nat) (blocks : List Nat), s.cfg.legal = true → s.pins = [] →
    s.fr.phase = .idle → s.geom.valid = true → s.client.todo = [] → s.client.program = .routine r :: more →
    (r = .eraseSized a size ∨ r = .eraseBlock4K a ∧ size = 4096 ∨ r = .eraseBlock32K a ∧ size = 32768
      ∨ r = .eraseBlock64K a ∧ size = 65536) →
    blocks = coveringBlocks (a.toNat / s.geom.pageByteSize) (ceilDiv size s.geom.pageByteSize + s.cfg.eraseMarginPages) →
    ((s.cfg.boundsCheck = true → a.toNat < s.geom.totalPages * s.geom.pageByteSize ∧ ∀ i ∈ blocks, i < s.geom.totalPages / 8) →
      step s = .next { s with client := { s.client with
        program := more, todo := blocks.map (fun i => .call (.row (.blockErase i))) ++ [.finish .unit], result := none } })
    ∧ (s.cfg.boundsCheck = true →
      ¬ (a.toNat < s.geom.totalPages * s.geom.pageByteSize ∧ ∀ i ∈ blocks, i < s.geom.totalPages / 8) →
      step s = .next { s with client := { s.client with
        program := more, todo := [], result := some (.failed (.code .outOfRange)) } })

/-- R185: the blocks of a sized erase are exactly the 8-page blocks that hold a page of `[startPage, startPage + numPages)`, in
ascending order; none for no pages, which is the model's reading (log 20). -/
def Obligations.SizedEraseCoversExactlyItsPages : Prop :=
  ∀ start n : Nat,
    (∀ i, i ∈ coveringBlocks start n ↔ ∃ p, start ≤ p ∧ p < start + n ∧ p / 8 = i)
    ∧ (coveringBlocks start n).Pairwise (· < ·)

/-- R188: `sleep()` and `wakeup()` present no command and change no state but the client's own (log 17). -/
def Obligations.SleepAndWakeupDoNothing : Prop :=
  ∀ (s : State) (r : Routine) (more : List Move), r = .sleep ∨ r = .wakeup → s.cfg.legal = true → s.pins = [] →
    s.fr.phase = .idle → s.client.todo = [] → s.client.program = .routine r :: more →
    runSteps 2 s =
      .next { s with client := { s.client with program := more, result := some (.returned .unit) } }

/-- R71, R178, R192, on the informative chip stub (PRESUMED, log 21): fetch the page of address `a`, write the inverted byte at
its offset, program the page, each frame met by a chip that has finished. Then the array holds the inverted byte at `a` and
every other byte as before, and an array read at `a` is answered with the inverted byte, so that the client reads `v`. -/
def Obligations.WriteThenReadBackOnTheStub : Prop :=
  ∀ (c : Config) (k k1 k2 k3 k4 : Stub) (a : Addr) (v : Byte), c.legal = true → c.opcodesDistinct = true →
    c.nBuffers = 2 → k.geom.legal = true → k.array.wf = true → k.buffers.wf = true → a.toNat < k.geom.totalPages * k.geom.pageByteSize →
    k1 = Stub.frame c (encode c k.geom (.pageToBufBuf0 (pageOf k.geom a.toNat))) k.settled →
    k2 = Stub.frame c (encode c k.geom (.bufWriteBuf0 (offsetOf k.geom a.toNat) [v])) k1.settled →
    k3 = Stub.frame c (encode c k.geom (.bufToPageBuf0 (pageOf k.geom a.toNat))) k2.settled →
    k4 = (encode c k.geom (.readArray a 0)).foldl (Stub.receive c) k3.settled.select →
    (∀ b, b < k.geom.totalPages * k.geom.pageByteSize → k3.array.read b = if b = a.toNat then invert v else k.array.read b)
    ∧ k4.answer c = some (invert v) ∧ deliver .readArray (invert v) = v

/-! ## The header word -/

/-- R82: the header word of format A has the opcode in bits 31..24 and the wire address in bits 23..0, and its bytes, from the top
down, are what the frame of a format A command sends; read back, the word is that command. The reader is the model's (log 12). -/
def Obligations.HeaderWordHoldsOpcodeAndAddress : Prop :=
  (∀ (opc : Byte) (w : Wire), (headerWord opc w).toNat / 2 ^ 24 = opc.toNat ∧ (headerWord opc w).toNat % 2 ^ 24 = w.toNat
    ∧ headerBytes (headerWord opc w) = [opc] ++ wireBytes w)
  ∧ ∀ (c : Config) (g : Geometry) (i : Instr) (p : Nat), c.opcodesDistinct = true → g.legal = true → i.encodable g = true →
    (i = .pageToBufBuf0 p ∨ i = .pageToBufBuf1 p ∨ i = .bufToPageBuf0 p ∨ i = .bufToPageBuf1 p ∨ i = .blockErase p) →
    ∃ opc w, encode c g i = [opc] ++ wireBytes w ∧ decodeHeaderWord c g (headerWord opc w) = .ok i
end

