-- ==== Sys2Proof/Laws/Memory.lean ====
section
/-!
SUPPORT. The laws of the stub's memory: read after write, and that every operation keeps the canonical form.
-/

namespace Sys2Proof.Machine.Memory

@[simp] theorem wfAbove_nil (lo : Option Nat) : wfAbove lo [] = true := rfl

theorem wfAbove_cons (lo : Option Nat) (k : Nat) (v : Byte) (rest : Memory) :
    wfAbove lo ((k, v) :: rest) = true ↔ (∀ l ∈ lo, l < k) ∧ v ≠ unlisted ∧ wfAbove (some k) rest = true := by
  cases lo <;> simp [wfAbove, and_assoc]

/-- A weaker lower bound does no harm. -/
theorem wfAbove_mono {lo lo' : Option Nat} {m : Memory} (h : wfAbove lo m = true)
    (hl : ∀ l' ∈ lo', ∃ l ∈ lo, l' ≤ l) : wfAbove lo' m = true := by
  cases m with
  | nil => rfl
  | cons e rest =>
    obtain ⟨k, v⟩ := e
    rw [wfAbove_cons] at h ⊢
    refine ⟨fun l' hl' => ?_, h.2⟩
    obtain ⟨l, hmem, hle⟩ := hl l' hl'
    exact lt_of_le_of_lt hle (h.1 l hmem)

/-- Below the first address there is nothing. -/
theorem read_below {m : Memory} {l a : Nat} (h : wfAbove (some l) m = true) (ha : a ≤ l) : read m a = unlisted := by
  induction m generalizing l with
  | nil => rfl
  | cons e rest ih =>
    obtain ⟨k, v⟩ := e
    rw [wfAbove_cons] at h
    have hk : l < k := h.1 l rfl
    have hne : k ≠ a := by omega
    simpa [read, hne] using ih h.2.2 (by omega)

theorem put_wfAbove {m : Memory} {lo : Option Nat} {a : Nat} {b : Byte} (h : wfAbove lo m = true)
    (hlo : ∀ l ∈ lo, l < a) (hb : b ≠ unlisted) : wfAbove lo (put m a b) = true := by
  induction m generalizing lo with
  | nil => simpa [put, wfAbove_cons] using ⟨hlo, hb⟩
  | cons e rest ih =>
    obtain ⟨k, v⟩ := e
    rw [wfAbove_cons] at h
    unfold put
    split
    case isTrue hlt => exact (wfAbove_cons ..).2 ⟨hlo, hb, (wfAbove_cons ..).2 ⟨by simpa using hlt, h.2⟩⟩
    case isFalse hlt =>
      split
      case isTrue heq => subst heq; exact (wfAbove_cons ..).2 ⟨h.1, hb, h.2.2⟩
      case isFalse hne =>
        exact (wfAbove_cons ..).2 ⟨h.1, h.2.1, ih h.2.2 (by simp; omega)⟩

theorem drop_wfAbove {m : Memory} {lo : Option Nat} {a : Nat} (h : wfAbove lo m = true) : wfAbove lo (drop m a) = true := by
  induction m generalizing lo with
  | nil => rfl
  | cons e rest ih =>
    obtain ⟨k, v⟩ := e
    rw [wfAbove_cons] at h
    unfold drop
    split
    · exact wfAbove_mono h.2.2 fun l hl => ⟨k, rfl, (h.1 l hl).le⟩
    · exact (wfAbove_cons ..).2 ⟨h.1, h.2.1, ih h.2.2⟩

/-- A write keeps the canonical form. -/
theorem write_wf {m : Memory} (h : wf m = true) (a : Nat) (b : Byte) : wf (write m a b) = true := by
  unfold write
  split
  · exact drop_wfAbove h
  · exact put_wfAbove h (by simp) ‹_›

/-- A block write keeps the canonical form. -/
theorem fill_wf {m : Memory} (h : wf m = true) (a : Nat) (f : Nat → Byte) (n : Nat) : wf (fill m a f n) = true := by
  induction n with
  | zero => exact h
  | succ n ih => exact write_wf ih ..

theorem read_put (m : Memory) (a c : Nat) (b : Byte) : read (put m a b) c = if a = c then b else read m c := by
  induction m with
  | nil => simp [put, read]
  | cons e rest ih =>
    obtain ⟨k, v⟩ := e
    unfold put
    split
    · simp [read]
    · split
      case isTrue hak => subst hak; by_cases hac : a = c <;> simp [read, hac]
      case isFalse hak =>
        by_cases hkc : k = c
        · subst hkc; simp [read, hak]
        · simp [read, hkc, ih]

theorem read_drop {m : Memory} {lo : Option Nat} (h : wfAbove lo m = true) (a c : Nat) :
    read (drop m a) c = if a = c then unlisted else read m c := by
  induction m generalizing lo with
  | nil => simp [drop, read]
  | cons e rest ih =>
    obtain ⟨k, v⟩ := e
    rw [wfAbove_cons] at h
    unfold drop
    by_cases hka : k = a
    · subst hka
      by_cases hkc : k = c
      · subst hkc; simpa using read_below h.2.2 le_rfl
      · simp [read, hkc]
    · by_cases hkc : k = c
      · subst hkc; simp [read, hka, Ne.symm hka]
      · simp [read, hka, hkc, ih h.2.2]

/-- What a byte reads as after a write of one byte. -/
theorem read_write {m : Memory} (h : wf m = true) (a c : Nat) (b : Byte) :
    read (write m a b) c = if a = c then b else read m c := by
  unfold write
  split
  · subst_vars; exact read_drop h a c
  · exact read_put m a c b

/-- What a byte reads as after a block write. -/
theorem read_fill {m : Memory} (h : wf m = true) (a : Nat) (f : Nat → Byte) (n c : Nat) :
    read (fill m a f n) c = if a ≤ c ∧ c < a + n then f (c - a) else read m c := by
  induction n with
  | zero =>
    have h0 : ¬(a ≤ c ∧ c < a + 0) := by omega
    simp only [fill, h0, if_false]
  | succ n ih =>
    rw [fill, read_write (fill_wf h ..), ih]
    by_cases hc : a + n = c
    · subst hc; simp
    · simp only [hc, if_false]
      congr 1
      simp only [eq_iff_iff]
      omega

end Sys2Proof.Machine.Memory
end

