-- ==== Sys2Proof/Laws/State.lean ====
section
/-!
SUPPORT. One lemma per field of the state per update: what each shared update writes, and that it leaves the rest alone.
-/

namespace Sys2Proof.Machine

variable (s : State)

@[simp] theorem select_cfg : (select s).cfg = s.cfg := rfl
@[simp] theorem select_geom : (select s).geom = s.geom := rfl
@[simp] theorem select_ended : (select s).ended = s.ended := rfl
@[simp] theorem select_sel : (select s).sel = true := rfl
@[simp] theorem select_fr : (select s).fr = s.fr := rfl
@[simp] theorem select_polls : (select s).polls = s.polls := rfl
@[simp] theorem select_resp : (select s).resp = s.resp := rfl
@[simp] theorem select_trace : (select s).trace = s.trace ++ [.sel] := rfl
@[simp] theorem select_client : (select s).client = s.client := rfl
@[simp] theorem select_pins : (select s).pins = s.pins := rfl
@[simp] theorem select_answers : (select s).answers = s.answers := rfl
@[simp] theorem select_draws : (select s).draws = s.draws := rfl
@[simp] theorem select_stub : (select s).stub = s.stub.map Stub.select := rfl

@[simp] theorem unselect_cfg : (unselect s).cfg = s.cfg := rfl
@[simp] theorem unselect_geom : (unselect s).geom = s.geom := rfl
@[simp] theorem unselect_ended : (unselect s).ended = s.ended := rfl
@[simp] theorem unselect_sel : (unselect s).sel = false := rfl
@[simp] theorem unselect_fr : (unselect s).fr = s.fr := rfl
@[simp] theorem unselect_polls : (unselect s).polls = s.polls := rfl
@[simp] theorem unselect_resp : (unselect s).resp = s.resp := rfl
@[simp] theorem unselect_trace : (unselect s).trace = s.trace ++ [.unsel] := rfl
@[simp] theorem unselect_client : (unselect s).client = s.client := rfl
@[simp] theorem unselect_pins : (unselect s).pins = s.pins := rfl
@[simp] theorem unselect_answers : (unselect s).answers = s.answers := rfl
@[simp] theorem unselect_draws : (unselect s).draws = s.draws := rfl
@[simp] theorem unselect_stub : (unselect s).stub = s.stub.map (Stub.unselect s.cfg) := rfl

@[simp] theorem transfer_cfg (tx : Byte) : (transfer tx s).cfg = s.cfg := rfl
@[simp] theorem transfer_geom (tx : Byte) : (transfer tx s).geom = s.geom := rfl
@[simp] theorem transfer_ended (tx : Byte) : (transfer tx s).ended = s.ended := rfl
@[simp] theorem transfer_sel (tx : Byte) : (transfer tx s).sel = s.sel := rfl
@[simp] theorem transfer_fr (tx : Byte) : (transfer tx s).fr = s.fr := rfl
@[simp] theorem transfer_polls (tx : Byte) : (transfer tx s).polls = s.polls := rfl
@[simp] theorem transfer_resp (tx : Byte) : (transfer tx s).resp = s.resp := rfl
@[simp] theorem transfer_trace (tx : Byte) : (transfer tx s).trace = s.trace ++ [.xfer tx (chipReply s)] := rfl
@[simp] theorem transfer_client (tx : Byte) : (transfer tx s).client = s.client := rfl
@[simp] theorem transfer_pins (tx : Byte) : (transfer tx s).pins = s.pins := rfl
@[simp] theorem transfer_answers (tx : Byte) : (transfer tx s).answers = s.answers.tail := rfl
@[simp] theorem transfer_draws (tx : Byte) : (transfer tx s).draws = s.draws + 1 := rfl
@[simp] theorem transfer_stub (tx : Byte) : (transfer tx s).stub = s.stub.map (fun k => k.receive s.cfg tx) := rfl

@[simp] theorem respond_cfg (r : Result) (d : RespData) : (respond r d s).cfg = s.cfg := rfl
@[simp] theorem respond_geom (r : Result) (d : RespData) : (respond r d s).geom = s.geom := rfl
@[simp] theorem respond_ended (r : Result) (d : RespData) : (respond r d s).ended = s.ended := rfl
@[simp] theorem respond_sel (r : Result) (d : RespData) : (respond r d s).sel = s.sel := rfl
@[simp] theorem respond_fr (r : Result) (d : RespData) : (respond r d s).fr = s.fr := rfl
@[simp] theorem respond_polls (r : Result) (d : RespData) : (respond r d s).polls = s.polls := rfl
@[simp] theorem respond_resp (r : Result) (d : RespData) : (respond r d s).resp = some { result := r, data := d } := rfl
@[simp] theorem respond_trace (r : Result) (d : RespData) : (respond r d s).trace = s.trace := rfl
@[simp] theorem respond_client (r : Result) (d : RespData) : (respond r d s).client = s.client := rfl
@[simp] theorem respond_pins (r : Result) (d : RespData) : (respond r d s).pins = s.pins := rfl
@[simp] theorem respond_answers (r : Result) (d : RespData) : (respond r d s).answers = s.answers := rfl
@[simp] theorem respond_draws (r : Result) (d : RespData) : (respond r d s).draws = s.draws := rfl
@[simp] theorem respond_stub (r : Result) (d : RespData) : (respond r d s).stub = s.stub := rfl

@[simp] theorem refuse_cfg (r : Result) : (refuse r s).cfg = s.cfg := rfl
@[simp] theorem refuse_geom (r : Result) : (refuse r s).geom = s.geom := rfl
@[simp] theorem refuse_ended (r : Result) : (refuse r s).ended = s.ended := rfl
@[simp] theorem refuse_sel (r : Result) : (refuse r s).sel = s.sel := rfl
@[simp] theorem refuse_fr (r : Result) : (refuse r s).fr = s.fr := rfl
@[simp] theorem refuse_polls (r : Result) : (refuse r s).polls = s.polls := rfl
@[simp] theorem refuse_resp (r : Result) : (refuse r s).resp = some { result := r, data := .bytes [] } := rfl
@[simp] theorem refuse_trace (r : Result) : (refuse r s).trace = s.trace := rfl
@[simp] theorem refuse_client (r : Result) : (refuse r s).client = s.client := rfl
@[simp] theorem refuse_pins (r : Result) : (refuse r s).pins = s.pins := rfl
@[simp] theorem refuse_answers (r : Result) : (refuse r s).answers = s.answers := rfl
@[simp] theorem refuse_draws (r : Result) : (refuse r s).draws = s.draws := rfl
@[simp] theorem refuse_stub (r : Result) : (refuse r s).stub = s.stub := rfl

@[simp] theorem raise_cfg (r : Result) : (raise r s).cfg = s.cfg := rfl
@[simp] theorem raise_geom (r : Result) : (raise r s).geom = s.geom := rfl
@[simp] theorem raise_ended (r : Result) : (raise r s).ended = s.ended := rfl
@[simp] theorem raise_sel (r : Result) : (raise r s).sel = s.sel := rfl
@[simp] theorem raise_fr (r : Result) : (raise r s).fr = { s.fr with phase := .idle } := rfl
@[simp] theorem raise_polls (r : Result) : (raise r s).polls = s.polls := rfl
@[simp] theorem raise_resp (r : Result) : (raise r s).resp = some { result := r, data := .bytes [] } := rfl
@[simp] theorem raise_trace (r : Result) : (raise r s).trace = s.trace := rfl
@[simp] theorem raise_client (r : Result) : (raise r s).client = s.client := rfl
@[simp] theorem raise_pins (r : Result) : (raise r s).pins = s.pins := rfl
@[simp] theorem raise_answers (r : Result) : (raise r s).answers = s.answers := rfl
@[simp] theorem raise_draws (r : Result) : (raise r s).draws = s.draws := rfl
@[simp] theorem raise_stub (r : Result) : (raise r s).stub = s.stub := rfl

@[simp] theorem complete_cfg : (complete s).cfg = s.cfg := rfl
@[simp] theorem complete_geom : (complete s).geom = s.geom := rfl
@[simp] theorem complete_ended : (complete s).ended = s.ended := rfl
@[simp] theorem complete_sel : (complete s).sel = s.sel := rfl
@[simp] theorem complete_fr : (complete s).fr = { s.fr with phase := .idle } := rfl
@[simp] theorem complete_polls : (complete s).polls = s.polls := rfl
@[simp] theorem complete_resp : (complete s).resp = some { result := .ok, data := .bytes s.fr.rx } := rfl
@[simp] theorem complete_trace : (complete s).trace = s.trace := rfl
@[simp] theorem complete_client : (complete s).client = s.client := rfl
@[simp] theorem complete_pins : (complete s).pins = s.pins := rfl
@[simp] theorem complete_answers : (complete s).answers = s.answers := rfl
@[simp] theorem complete_draws : (complete s).draws = s.draws := rfl
@[simp] theorem complete_stub : (complete s).stub = s.stub := rfl

@[simp] theorem admitted_cfg (f : Framer) : (admitted f s).cfg = s.cfg := rfl
@[simp] theorem admitted_geom (f : Framer) : (admitted f s).geom = s.geom := rfl
@[simp] theorem admitted_ended (f : Framer) : (admitted f s).ended = s.ended := rfl
@[simp] theorem admitted_sel (f : Framer) : (admitted f s).sel = s.sel := rfl
@[simp] theorem admitted_fr (f : Framer) : (admitted f s).fr = f := rfl
@[simp] theorem admitted_polls (f : Framer) : (admitted f s).polls = 0 := rfl
@[simp] theorem admitted_resp (f : Framer) : (admitted f s).resp = none := rfl
@[simp] theorem admitted_trace (f : Framer) : (admitted f s).trace = s.trace := rfl
@[simp] theorem admitted_client (f : Framer) : (admitted f s).client = s.client := rfl
@[simp] theorem admitted_pins (f : Framer) : (admitted f s).pins = s.pins := rfl
@[simp] theorem admitted_answers (f : Framer) : (admitted f s).answers = s.answers := rfl
@[simp] theorem admitted_draws (f : Framer) : (admitted f s).draws = s.draws := rfl
@[simp] theorem admitted_stub (f : Framer) : (admitted f s).stub = s.stub := rfl

@[simp] theorem nextPos_cfg : (nextPos s).cfg = s.cfg := rfl
@[simp] theorem nextPos_geom : (nextPos s).geom = s.geom := rfl
@[simp] theorem nextPos_ended : (nextPos s).ended = s.ended := rfl
@[simp] theorem nextPos_sel : (nextPos s).sel = s.sel := rfl
@[simp] theorem nextPos_fr : (nextPos s).fr = { s.fr with pos := s.fr.pos + 1 } := rfl
@[simp] theorem nextPos_polls : (nextPos s).polls = s.polls := rfl
@[simp] theorem nextPos_resp : (nextPos s).resp = s.resp := rfl
@[simp] theorem nextPos_trace : (nextPos s).trace = s.trace := rfl
@[simp] theorem nextPos_client : (nextPos s).client = s.client := rfl
@[simp] theorem nextPos_pins : (nextPos s).pins = s.pins := rfl
@[simp] theorem nextPos_answers : (nextPos s).answers = s.answers := rfl
@[simp] theorem nextPos_draws : (nextPos s).draws = s.draws := rfl
@[simp] theorem nextPos_stub : (nextPos s).stub = s.stub := rfl

@[simp] theorem setTodo_cfg (ops : List ClientOp) : (setTodo ops s).cfg = s.cfg := rfl
@[simp] theorem setTodo_geom (ops : List ClientOp) : (setTodo ops s).geom = s.geom := rfl
@[simp] theorem setTodo_ended (ops : List ClientOp) : (setTodo ops s).ended = s.ended := rfl
@[simp] theorem setTodo_sel (ops : List ClientOp) : (setTodo ops s).sel = s.sel := rfl
@[simp] theorem setTodo_fr (ops : List ClientOp) : (setTodo ops s).fr = s.fr := rfl
@[simp] theorem setTodo_polls (ops : List ClientOp) : (setTodo ops s).polls = s.polls := rfl
@[simp] theorem setTodo_resp (ops : List ClientOp) : (setTodo ops s).resp = s.resp := rfl
@[simp] theorem setTodo_trace (ops : List ClientOp) : (setTodo ops s).trace = s.trace := rfl
@[simp] theorem setTodo_client (ops : List ClientOp) : (setTodo ops s).client = { s.client with todo := ops } := rfl
@[simp] theorem setTodo_pins (ops : List ClientOp) : (setTodo ops s).pins = s.pins := rfl
@[simp] theorem setTodo_answers (ops : List ClientOp) : (setTodo ops s).answers = s.answers := rfl
@[simp] theorem setTodo_draws (ops : List ClientOp) : (setTodo ops s).draws = s.draws := rfl
@[simp] theorem setTodo_stub (ops : List ClientOp) : (setTodo ops s).stub = s.stub := rfl

@[simp] theorem failRoutine_cfg (f : Failure) : (failRoutine f s).cfg = s.cfg := rfl
@[simp] theorem failRoutine_geom (f : Failure) : (failRoutine f s).geom = s.geom := rfl
@[simp] theorem failRoutine_ended (f : Failure) : (failRoutine f s).ended = s.ended := rfl
@[simp] theorem failRoutine_sel (f : Failure) : (failRoutine f s).sel = s.sel := rfl
@[simp] theorem failRoutine_fr (f : Failure) : (failRoutine f s).fr = s.fr := rfl
@[simp] theorem failRoutine_polls (f : Failure) : (failRoutine f s).polls = s.polls := rfl
@[simp] theorem failRoutine_resp (f : Failure) : (failRoutine f s).resp = s.resp := rfl
@[simp] theorem failRoutine_trace (f : Failure) : (failRoutine f s).trace = s.trace := rfl
@[simp] theorem failRoutine_client (f : Failure) : (failRoutine f s).client = { s.client with todo := [], result := some (.failed f) } := rfl
@[simp] theorem failRoutine_pins (f : Failure) : (failRoutine f s).pins = s.pins := rfl
@[simp] theorem failRoutine_answers (f : Failure) : (failRoutine f s).answers = s.answers := rfl
@[simp] theorem failRoutine_draws (f : Failure) : (failRoutine f s).draws = s.draws := rfl
@[simp] theorem failRoutine_stub (f : Failure) : (failRoutine f s).stub = s.stub := rfl

@[simp] theorem returnRoutine_cfg (v : RoutineValue) : (returnRoutine v s).cfg = s.cfg := rfl
@[simp] theorem returnRoutine_geom (v : RoutineValue) : (returnRoutine v s).geom = s.geom := rfl
@[simp] theorem returnRoutine_ended (v : RoutineValue) : (returnRoutine v s).ended = s.ended := rfl
@[simp] theorem returnRoutine_sel (v : RoutineValue) : (returnRoutine v s).sel = s.sel := rfl
@[simp] theorem returnRoutine_fr (v : RoutineValue) : (returnRoutine v s).fr = s.fr := rfl
@[simp] theorem returnRoutine_polls (v : RoutineValue) : (returnRoutine v s).polls = s.polls := rfl
@[simp] theorem returnRoutine_resp (v : RoutineValue) : (returnRoutine v s).resp = s.resp := rfl
@[simp] theorem returnRoutine_trace (v : RoutineValue) : (returnRoutine v s).trace = s.trace := rfl
@[simp] theorem returnRoutine_client (v : RoutineValue) : (returnRoutine v s).client = { s.client with todo := [], result := some (.returned v) } := rfl
@[simp] theorem returnRoutine_pins (v : RoutineValue) : (returnRoutine v s).pins = s.pins := rfl
@[simp] theorem returnRoutine_answers (v : RoutineValue) : (returnRoutine v s).answers = s.answers := rfl
@[simp] theorem returnRoutine_draws (v : RoutineValue) : (returnRoutine v s).draws = s.draws := rfl
@[simp] theorem returnRoutine_stub (v : RoutineValue) : (returnRoutine v s).stub = s.stub := rfl

@[simp] theorem setSession_cfg (p : Option Nat) : (setSession p s).cfg = s.cfg := rfl
@[simp] theorem setSession_geom (p : Option Nat) : (setSession p s).geom = s.geom := rfl
@[simp] theorem setSession_ended (p : Option Nat) : (setSession p s).ended = s.ended := rfl
@[simp] theorem setSession_sel (p : Option Nat) : (setSession p s).sel = s.sel := rfl
@[simp] theorem setSession_fr (p : Option Nat) : (setSession p s).fr = s.fr := rfl
@[simp] theorem setSession_polls (p : Option Nat) : (setSession p s).polls = s.polls := rfl
@[simp] theorem setSession_resp (p : Option Nat) : (setSession p s).resp = s.resp := rfl
@[simp] theorem setSession_trace (p : Option Nat) : (setSession p s).trace = s.trace := rfl
@[simp] theorem setSession_client (p : Option Nat) : (setSession p s).client = { s.client with session := p } := rfl
@[simp] theorem setSession_pins (p : Option Nat) : (setSession p s).pins = s.pins := rfl
@[simp] theorem setSession_answers (p : Option Nat) : (setSession p s).answers = s.answers := rfl
@[simp] theorem setSession_draws (p : Option Nat) : (setSession p s).draws = s.draws := rfl
@[simp] theorem setSession_stub (p : Option Nat) : (setSession p s).stub = s.stub := rfl

@[simp] theorem setProgram_cfg (p : List Move) : (setProgram p s).cfg = s.cfg := rfl
@[simp] theorem setProgram_geom (p : List Move) : (setProgram p s).geom = s.geom := rfl
@[simp] theorem setProgram_ended (p : List Move) : (setProgram p s).ended = s.ended := rfl
@[simp] theorem setProgram_sel (p : List Move) : (setProgram p s).sel = s.sel := rfl
@[simp] theorem setProgram_fr (p : List Move) : (setProgram p s).fr = s.fr := rfl
@[simp] theorem setProgram_polls (p : List Move) : (setProgram p s).polls = s.polls := rfl
@[simp] theorem setProgram_resp (p : List Move) : (setProgram p s).resp = s.resp := rfl
@[simp] theorem setProgram_trace (p : List Move) : (setProgram p s).trace = s.trace := rfl
@[simp] theorem setProgram_client (p : List Move) : (setProgram p s).client = { s.client with program := p } := rfl
@[simp] theorem setProgram_pins (p : List Move) : (setProgram p s).pins = s.pins := rfl
@[simp] theorem setProgram_answers (p : List Move) : (setProgram p s).answers = s.answers := rfl
@[simp] theorem setProgram_draws (p : List Move) : (setProgram p s).draws = s.draws := rfl
@[simp] theorem setProgram_stub (p : List Move) : (setProgram p s).stub = s.stub := rfl

@[simp] theorem resetBlock_cfg : (resetBlock s).cfg = s.cfg := rfl
@[simp] theorem resetBlock_geom : (resetBlock s).geom = GeomReg.reset := rfl
@[simp] theorem resetBlock_ended : (resetBlock s).ended = false := rfl
@[simp] theorem resetBlock_sel : (resetBlock s).sel = false := rfl
@[simp] theorem resetBlock_fr : (resetBlock s).fr = Framer.reset := rfl
@[simp] theorem resetBlock_polls : (resetBlock s).polls = 0 := rfl
@[simp] theorem resetBlock_resp : (resetBlock s).resp = none := rfl
@[simp] theorem resetBlock_trace : (resetBlock s).trace = s.trace := rfl
@[simp] theorem resetBlock_client : (resetBlock s).client = { s.client with session := none, todo := [], result := none } := rfl
@[simp] theorem resetBlock_pins : (resetBlock s).pins = s.pins := rfl
@[simp] theorem resetBlock_answers : (resetBlock s).answers = s.answers := rfl
@[simp] theorem resetBlock_draws : (resetBlock s).draws = s.draws := rfl
@[simp] theorem resetBlock_stub : (resetBlock s).stub = s.stub := rfl

@[simp] theorem powerCycle_cfg : (powerCycle s).cfg = s.cfg := rfl
@[simp] theorem powerCycle_geom : (powerCycle s).geom = GeomReg.reset := rfl
@[simp] theorem powerCycle_ended : (powerCycle s).ended = false := rfl
@[simp] theorem powerCycle_sel : (powerCycle s).sel = false := rfl
@[simp] theorem powerCycle_fr : (powerCycle s).fr = Framer.reset := rfl
@[simp] theorem powerCycle_polls : (powerCycle s).polls = 0 := rfl
@[simp] theorem powerCycle_resp : (powerCycle s).resp = none := rfl
@[simp] theorem powerCycle_trace : (powerCycle s).trace = s.trace := rfl
@[simp] theorem powerCycle_client : (powerCycle s).client = { s.client with session := none, todo := [], result := none } := rfl
@[simp] theorem powerCycle_pins : (powerCycle s).pins = s.pins := rfl
@[simp] theorem powerCycle_answers : (powerCycle s).answers = s.answers := rfl
@[simp] theorem powerCycle_draws : (powerCycle s).draws = s.draws + 1 := rfl
@[simp] theorem powerCycle_stub : (powerCycle s).stub = s.stub.map (Stub.powerUp s.cfg s.draws) := rfl

end Sys2Proof.Machine
end

