-- ==== Sys2Proof/Laws/Ops.lean ====
section
/-!
SUPPORT. One lemma per shared operation that says everything it can do; later proofs cite these instead of unfolding it.
-/

namespace Sys2Proof.Machine

/-! ## Presenting a command -/

/-- Everything that presenting a command can do to a state. -/
inductive Presented (s : State) : State → Prop
  /-- It is answered or refused at once. -/
  | answered (r : Result) (d : RespData) : Presented s (respond r d s)
  /-- A status read is admitted: the body at once. -/
  | status (h : s.ended = false) : Presented s (admitted (frame .body .statusRead s.cfg.opcStatusRead none 0 [] 1) s)
  /-- An address-bearing command is admitted: the wait begins. -/
  | addressed (cmd : FrameCmd) (opc : Byte) (wire : Wire) (ndummy : Nat) (tx : List Byte) (nrx : Nat) (h : s.ended = false)
      (hv : s.geom.valid = true) (hc : cmd ≠ .statusRead) :
      Presented s (admitted (frame .poll cmd opc (some wire) ndummy tx nrx) s)
  /-- A geometry is committed. -/
  | committed (row : Geometry) (h : s.ended = false) (hv : s.geom.valid = false) (hr : row ∈ s.cfg.geomTable) :
      Presented s (respond .ok (.bytes []) { s with geom := { toGeometry := row, valid := true } })
  /-- The block is ended. -/
  | ended (h : s.ended = false) : Presented s (respond .ok (.bytes []) { s with ended := true })

theorem answerTranslation_presented {f : Geometry → RespData} {s t : State} (h : answerTranslation f s = .next t) : Presented s t := by
  unfold answerTranslation at h
  split at h
  · cases h; exact .answered ..
  · split at h <;> cases h <;> exact .answered ..

theorem admitAddressed_presented {cmd : FrameCmd} {opc : Option Byte} {b : Bool} {w : Wire} {nd : Nat} {tx : List Byte}
    {nrx : Nat} {s t : State} (hc : cmd ≠ .statusRead) (h : admitAddressed cmd opc b w nd tx nrx s = .next t) :
    Presented s t := by
  unfold admitAddressed at h
  split at h
  case isTrue => cases h; exact .answered ..
  case isFalse he =>
    split at h
    case isTrue => cases h; exact .answered ..
    case isFalse hv =>
      split at h
      · cases h; exact .answered ..
      · split at h
        · cases h; exact .answered ..
        · cases h; exact .addressed _ _ _ _ _ _ (by simpa using he) (by simpa using hv) hc

theorem exec_presented {i : Instr} {s t : State} (h : exec i s = .next t) : Presented s t := by
  cases i with
  | statusRead =>
    simp only [exec, execStatusRead] at h
    split at h <;> cases h
    · exact .answered ..
    · exact .status (by simpa using ‹¬s.ended = true›)
  | split3 w =>
    simp only [exec, execSplit3] at h
    split at h <;> cases h <;> exact .answered ..
  | endBlock =>
    simp only [exec, execEnd] at h
    split at h <;> cases h
    · exact .answered ..
    · exact .ended (by simpa using ‹¬s.ended = true›)
  | commitGeometry d =>
    simp only [exec, execCommitGeometry] at h
    split at h
    case isTrue => cases h; exact .answered ..
    case isFalse he =>
      split at h
      case isTrue => cases h; exact .answered ..
      case isFalse hd =>
        split at h
        case isTrue => cases h; exact .answered ..
        case isFalse hv =>
          split at h
          · cases h
          · next row hrow =>
            cases h
            exact .committed row (by simpa using he) (by simpa using hv) (List.mem_of_getElem? hrow)
  | pageof a => simp only [exec, execPageof] at h; exact answerTranslation_presented h
  | offsetof a => simp only [exec, execOffsetof] at h; exact answerTranslation_presented h
  | linearof p o => simp only [exec, execLinearof] at h; exact answerTranslation_presented h
  | pack p o => simp only [exec, execPack] at h; exact answerTranslation_presented h
  | xlate a => simp only [exec, execXlate] at h; exact answerTranslation_presented h
  | readArray a n => simp only [exec, execReadArray] at h; exact admitAddressed_presented (by decide) h
  | bufWriteBuf0 o b => exact admitAddressed_presented (by decide) h
  | bufWriteBuf1 o b => exact admitAddressed_presented (by decide) h
  | pageToBufBuf0 p => exact admitAddressed_presented (by decide) h
  | pageToBufBuf1 p => exact admitAddressed_presented (by decide) h
  | bufToPageBuf0 p => exact admitAddressed_presented (by decide) h
  | bufToPageBuf1 p => exact admitAddressed_presented (by decide) h
  | blockErase k => simp only [exec, execBlockErase] at h; exact admitAddressed_presented (by decide) h

theorem present_presented {r : Request} {s t : State} (h : present r s = .next t) : Presented s t := by
  unfold present at h
  split at h
  all_goals first | exact exec_presented h | exact admitAddressed_presented (by decide) h

/-! ## What is answered at once is answered: no command stops the machine -/

theorem answerTranslation_total (f : Geometry → RespData) (s : State) : ∃ t, answerTranslation f s = .next t := by
  unfold answerTranslation
  split
  · exact ⟨_, rfl⟩
  · split <;> exact ⟨_, rfl⟩

theorem admitAddressed_total (cmd : FrameCmd) (opc : Option Byte) (b : Bool) (w : Wire) (nd : Nat) (tx : List Byte) (nrx : Nat)
    (s : State) : ∃ t, admitAddressed cmd opc b w nd tx nrx s = .next t := by
  unfold admitAddressed
  split
  · exact ⟨_, rfl⟩
  · split
    · exact ⟨_, rfl⟩
    · split
      · exact ⟨_, rfl⟩
      · split <;> exact ⟨_, rfl⟩

/-- The table of legal parameters has a row for every density index. -/
theorem Config.table_length {c : Config} (h : c.legal = true) : c.geomTable.length = Config.nVariants := by
  simp only [Config.legal, Bool.and_eq_true, decide_eq_true_eq] at h
  exact h.1.1.1.1.1.1.1

/-- Every row of the table of legal parameters is legal (R25). -/
theorem Config.row_legal {c : Config} (h : c.legal = true) {g : Geometry} (hg : g ∈ c.geomTable) : g.legal = true := by
  simp only [Config.legal, Bool.and_eq_true, decide_eq_true_eq] at h
  exact List.all_eq_true.mp h.1.1.1.1.1.1.2 g hg

theorem Config.budget_pos {c : Config} (h : c.legal = true) : c.pollBudget ≠ some 0 := by
  simp only [Config.legal, Bool.and_eq_true, decide_eq_true_eq] at h
  exact h.1.1.1.1.1.2

/-- The five constraints of R25, one by one. -/
theorem Geometry.legal_iff (g : Geometry) : g.legal = true ↔
    0 < g.pageByteSize ∧ g.pageByteSize ≤ 2 ^ g.pageBitWidth ∧ g.totalPages * 2 ^ g.pageBitWidth ≤ 2 ^ 24
      ∧ g.totalPages % Config.blockPages = 0 ∧ 1 ≤ g.totalPages := by
  simp [Geometry.legal, and_assoc]

/-! ## The chip stub keeps the canonical form -/

/-- Both memories of a stub are canonical. -/
def Stub.Canonical (k : Stub) : Prop := k.array.wf = true ∧ k.buffers.wf = true

theorem Stub.select_canonical {k : Stub} (h : k.Canonical) : k.select.Canonical := h

theorem Stub.receive_canonical {k : Stub} (h : k.Canonical) (c : Config) (tx : Byte) : (k.receive c tx).Canonical := by
  refine ⟨h.1, ?_⟩
  show (k.storePayload c tx).wf = true
  unfold Stub.storePayload
  split
  · split
    · exact h.2
    · split
      · exact Memory.write_wf h.2 ..
      · exact h.2
  · exact h.2

theorem Stub.execute_canonical {k : Stub} (h : k.Canonical) (c : Config) : (k.execute c).Canonical := by
  unfold Stub.execute
  split
  · split
    · exact h
    · split
      · exact h
      · split
        · exact h
        · split
          · exact ⟨h.1, Memory.fill_wf h.2 ..⟩
          · exact ⟨Memory.fill_wf h.1 .., h.2⟩
          · split
            · exact ⟨Memory.fill_wf h.1 .., h.2⟩
            · exact h
  · exact h

theorem Stub.unselect_canonical {k : Stub} (h : k.Canonical) (c : Config) : (k.unselect c).Canonical :=
  Stub.execute_canonical h c

theorem Stub.powerUp_canonical {k : Stub} (h : k.Canonical) (c : Config) (d : Nat) : (k.powerUp c d).Canonical :=
  ⟨h.1, Memory.fill_wf h.2 ..⟩

/-! ## The micro-steps, row by row of R135 -/

@[simp] theorem phaseAfter_body (c : Config) (b : Byte) : phaseAfter c b = .body ↔ ready c b = true := by
  unfold phaseAfter; split <;> simp_all

@[simp] theorem phaseAfter_poll (c : Config) (b : Byte) : phaseAfter c b = .poll ↔ ready c b = false := by
  unfold phaseAfter; split <;> simp_all

@[simp] theorem phaseAfter_idle (c : Config) (b : Byte) : phaseAfter c b ≠ .idle := by
  unfold phaseAfter; split <;> simp

theorem pollStep_zero {s : State} (h : s.fr.pos = 0) :
    pollStep s = if s.cfg.pollBudget = some s.polls then raise .busTimeout s else nextPos (select s) := by
  simp [pollStep, h]

theorem pollStep_one {s : State} (h : s.fr.pos = 1) : pollStep s = nextPos (transfer s.cfg.opcStatusRead s) := by
  simp [pollStep, h]

theorem pollStep_two {s : State} (h : s.fr.pos = 2) :
    pollStep s = nextPos { transfer s.cfg.fillByte s with fr := { s.fr with sample := chipReply s } } := by
  simp [pollStep, h]

theorem pollStep_last {s : State} (h : 3 ≤ s.fr.pos) :
    pollStep s = { unselect s with
      polls := s.polls + 1
      fr := { s.fr with phase := phaseAfter s.cfg s.fr.sample, pos := 0 } } := by
  obtain ⟨n, hn⟩ : ∃ n, s.fr.pos = n + 3 := ⟨s.fr.pos - 3, by omega⟩
  simp [pollStep, hn]

/-- Everything one event of the body frame can be. -/
theorem bodyStep_cases (s : State) :
    (s.fr.pos = 0 ∧ bodyStep s = nextPos (select s))
    ∨ (∃ b ts n rx, 0 < s.fr.pos
        ∧ bodyStep s = { transfer b s with fr := { s.fr with pos := s.fr.pos + 1, tx := ts, nrx := n, rx := rx } })
    ∨ (0 < s.fr.pos ∧ (header s.cfg s.fr)[s.fr.pos - 1]? = none ∧ s.fr.tx = [] ∧ s.fr.nrx = 0
        ∧ bodyStep s = complete (unselect s)) := by
  rcases hp : s.fr.pos with _ | p
  · exact .inl ⟨rfl, by simp [bodyStep, hp]⟩
  · cases hb : (header s.cfg s.fr)[p]? with
    | some b => exact .inr (.inl ⟨b, s.fr.tx, s.fr.nrx, s.fr.rx, by omega, by simp [bodyStep, hp, hb, nextPos]⟩)
    | none =>
      rcases ht : s.fr.tx with _ | ⟨u, ts⟩
      · rcases hn : s.fr.nrx with _ | n
        · exact .inr (.inr ⟨by omega, by simpa using hb, rfl, rfl, by simp [bodyStep, hp, hb, ht, hn]⟩)
        · exact .inr (.inl ⟨s.cfg.fillByte, [], n, s.fr.rx ++ [deliver s.fr.cmd (chipReply s)], by omega,
            by simp [bodyStep, hp, hb, ht, hn, nextPos]⟩)
      · exact .inr (.inl ⟨u, ts, s.fr.nrx, s.fr.rx, by omega, by simp [bodyStep, hp, hb, ht, nextPos]⟩)

/-! ## The client and the step -/

/-- The state with another client: all that the client's own bookkeeping can change. -/
def withClient (c : Client) (s : State) : State := { s with client := c }

/-- Everything the client's move can do: bookkeeping of its own, or that and then presenting a command. -/
def ClientDoes (s t : State) : Prop := ∃ c, t = withClient c s ∨ Presented (withClient c s) t

theorem clientDoes_bookkeeping {s t : State} {c : Client} (h : t = withClient c s) : ClientDoes s t := ⟨c, .inl h⟩

theorem clientDoes_present {s u t : State} {r : Request} {c : Client} (hu : u = withClient c s)
    (h : present r u = .next t) : ClientDoes s t := ⟨c, .inr (hu ▸ present_presented h)⟩

theorem clientOp_does {op : ClientOp} {rest : List ClientOp} {s t : State} (h : clientOp op rest s = .next t) :
    ClientDoes s t := by
  cases op with
  | call r => exact clientDoes_present rfl h
  | check =>
    cases h; unfold checkResp
    split
    · exact ⟨s.client, .inl rfl⟩
    · exact clientDoes_bookkeeping rfl
    · exact clientDoes_bookkeeping rfl
  | checkDetect =>
    cases h; unfold checkResp
    split
    · exact ⟨s.client, .inl rfl⟩
    · exact clientDoes_bookkeeping rfl
    · exact clientDoes_bookkeeping rfl
  | detect left e =>
    simp only [clientOp, detectAttempt] at h
    split at h
    · cases h; exact clientDoes_bookkeeping rfl
    · exact clientDoes_present rfl h
  | detectFirst left e =>
    cases h
    split <;> exact clientDoes_bookkeeping rfl
  | detectPoll left polls e =>
    simp only [clientOp, detectInner] at h
    split at h
    · split at h
      · exact clientDoes_present rfl h
      · cases h; exact clientDoes_bookkeeping rfl
    · split at h
      · cases h; exact clientDoes_bookkeeping rfl
      · exact clientDoes_present rfl h
  | startSession a => cases h; split <;> exact clientDoes_bookkeeping rfl
  | setActive p => cases h; exact clientDoes_bookkeeping rfl
  | sessionByte a v => cases h; split <;> exact clientDoes_bookkeeping rfl
  | stopSession => cases h; split <;> exact clientDoes_bookkeeping rfl
  | finish v => cases h; exact clientDoes_bookkeeping rfl
  | finishBusy => cases h; exact clientDoes_bookkeeping rfl
  | finishByte => cases h; exact clientDoes_bookkeeping rfl
  | finishBytes => cases h; exact clientDoes_bookkeeping rfl

theorem clientMove_does {s t : State} (h : clientMove s = .next t) : ClientDoes s t := by
  unfold clientMove at h
  split at h
  · exact clientOp_does h
  · split at h
    · exact clientDoes_present rfl h
    · cases h
      unfold beginRoutine
      split <;> exact clientDoes_bookkeeping rfl
    · cases h; exact ⟨s.client, .inl rfl⟩

/-- The state once the step has taken its sample of the reset and power input. -/
def nextPins (s : State) : State := { s with pins := s.pins.tail }

@[simp] theorem nextPins_cfg (s : State) : (nextPins s).cfg = s.cfg := rfl
@[simp] theorem nextPins_geom (s : State) : (nextPins s).geom = s.geom := rfl
@[simp] theorem nextPins_ended (s : State) : (nextPins s).ended = s.ended := rfl
@[simp] theorem nextPins_sel (s : State) : (nextPins s).sel = s.sel := rfl
@[simp] theorem nextPins_fr (s : State) : (nextPins s).fr = s.fr := rfl
@[simp] theorem nextPins_polls (s : State) : (nextPins s).polls = s.polls := rfl
@[simp] theorem nextPins_resp (s : State) : (nextPins s).resp = s.resp := rfl
@[simp] theorem nextPins_trace (s : State) : (nextPins s).trace = s.trace := rfl
@[simp] theorem nextPins_client (s : State) : (nextPins s).client = s.client := rfl
@[simp] theorem nextPins_answers (s : State) : (nextPins s).answers = s.answers := rfl
@[simp] theorem nextPins_draws (s : State) : (nextPins s).draws = s.draws := rfl
@[simp] theorem nextPins_stub (s : State) : (nextPins s).stub = s.stub := rfl
@[simp] theorem nextPins_pins (s : State) : (nextPins s).pins = s.pins.tail := rfl

/-- Everything a step can do. -/
theorem step_cases {s t : State} (h : step s = .next t) : s.cfg.legal = true ∧
    ((s.pins.head? = some .reset ∧ t = resetInput (nextPins s))
    ∨ (s.pins.head? = some .powerCycle ∧ t = powerCycle (nextPins s))
    ∨ (NoReset s ∧ s.fr.phase = .poll ∧ t = pollStep (nextPins s))
    ∨ (NoReset s ∧ s.fr.phase = .body ∧ t = bodyStep (nextPins s))
    ∨ (NoReset s ∧ s.fr.phase = .idle ∧ ClientDoes (nextPins s) t)) := by
  unfold step at h
  split at h
  case isTrue => cases h
  case isFalse hl =>
    refine ⟨by simpa using hl, ?_⟩
    have key : ∀ u, u = nextPins s → NoReset s → advance u = .next t →
        (NoReset s ∧ s.fr.phase = .poll ∧ t = pollStep (nextPins s))
        ∨ (NoReset s ∧ s.fr.phase = .body ∧ t = bodyStep (nextPins s))
        ∨ (NoReset s ∧ s.fr.phase = .idle ∧ ClientDoes (nextPins s) t) := by
      rintro u rfl hn ha
      unfold advance at ha
      split at ha
      · next hp => cases ha; exact .inl ⟨hn, hp, rfl⟩
      · next hp => cases ha; exact .inr (.inl ⟨hn, hp, rfl⟩)
      · next hp => exact .inr (.inr ⟨hn, hp, clientMove_does ha⟩)
    split at h
    case h_1 hp =>
      exact .inr (.inr (key s (by cases s; simp_all [nextPins]) (by simp [NoReset, hp]) h))
    case h_2 p ps hp =>
      cases p with
      | run => exact .inr (.inr (key _ (by simp [nextPins, hp]) (by simp [NoReset, hp]) h))
      | reset => exact .inl ⟨by simp [hp], by cases h; simp [nextPins, hp]⟩
      | powerCycle => exact .inr (.inl ⟨by simp [hp], by cases h; simp [nextPins, hp]⟩)

end Sys2Proof.Machine
end

