-- ==== Sys2Proof/Laws/Operands.lean ====
section
/-!
SUPPORT. Small laws of the operand forms: the offset field holds every offset of a page, and the three address bytes hold the
wire address.
-/

namespace Sys2Proof.Machine

/-- The shift of a legal geometry leaves a page field (R25). -/
theorem Geometry.width_le {g : Geometry} (hg : g.legal = true) : g.pageBitWidth ≤ 24 := by
  rw [Geometry.legal_iff] at hg
  obtain ⟨-, -, h, -, ht⟩ := hg
  by_contra hh
  have h2 : 2 ^ 24 < 2 ^ g.pageBitWidth := Nat.pow_lt_pow_right (by omega) (by omega)
  have : 1 * 2 ^ g.pageBitWidth ≤ g.totalPages * 2 ^ g.pageBitWidth := Nat.mul_le_mul_right _ ht
  omega

/-- The offset of an address is below the page size. -/
theorem offsetOf_lt_size {g : Geometry} (hg : g.legal = true) (a : Nat) : offsetOf g a < g.pageByteSize :=
  Nat.mod_lt a ((Geometry.legal_iff g).1 hg).1

/-- The offset of an address fits the offset field (R123). -/
theorem offsetOf_lt_field {g : Geometry} (hg : g.legal = true) (a : Nat) : offsetOf g a < 2 ^ g.pageBitWidth :=
  lt_of_lt_of_le (offsetOf_lt_size hg a) ((Geometry.legal_iff g).1 hg).2.1

/-- The three address bytes put together give the wire address back (R117). -/
theorem wireOfBytes_split (w : Wire) : wireOfBytes (wireHigh w) (wireMid w) (wireLow w) = w := by
  apply BitVec.eq_of_toNat_eq
  have := w.isLt
  simp only [wireOfBytes, wireHigh, wireMid, wireLow, BitVec.toNat_append, BitVec.extractLsb'_toNat,
    Nat.shiftRight_eq_div_pow]
  rw [← Nat.shiftLeft_add_eq_or_of_lt (by omega), ← Nat.shiftLeft_add_eq_or_of_lt (by omega)]
  simp only [Nat.shiftLeft_eq]
  omega

@[simp] theorem wireBytes_length (w : Wire) : (wireBytes w).length = 3 := rfl

/-- The inversion of a data byte undone (R62). -/
@[simp] theorem invert_invert (b : Byte) : invert (invert b) = b := by simp [invert]

end Sys2Proof.Machine
end

