-- ==== Sys2Proof/Laws/PerInstr.lean ====
section
/-!
SUPPORT. Facts about every command, one lemma per constructor. `FrameLength`: a command's encoding is empty (it has no frame, or
its buffer index no opcode), or it has exactly the length its format gives (R91).
-/

namespace Sys2Proof.Laws.FrameLength

open Machine

def Statement (i : Instr) : Prop :=
  ∀ (c : Config) (g : Geometry), encode c g i = [] ∨ (encode c g i).length = i.frameLength

theorem frameBytes_length (c : Config) (opc : Option Byte) (w : Option Wire) (ndummy : Nat) (tx : List Byte) (nrx : Nat) :
    frameBytes c opc w ndummy tx nrx = []
      ∨ (frameBytes c opc w ndummy tx nrx).length = 1 + (if w.isSome then 3 else 0) + ndummy + tx.length + nrx := by
  cases opc with
  | none => exact .inl rfl
  | some b => cases w <;> refine .inr ?_ <;> simp [frameBytes] <;> omega

theorem statusRead : Statement .statusRead := fun c _ => frameBytes_length c (WireOp.statusRead.opcode c) none 0 [] 1
theorem readArray (a : Addr) (n : Nat) : Statement (.readArray a n) := fun c g => by
  simpa [encode, Instr.frameLength, Config.nDummyRead] using
    frameBytes_length c (WireOp.readArray.opcode c) (some (wireOfLinear g a)) Config.nDummyRead [] n
theorem bufWriteBuf0 (o : Nat) (bytes : List Byte) : Statement (.bufWriteBuf0 o bytes) := fun c g => by
  simpa [encode, Instr.frameLength] using
    frameBytes_length c (WireOp.bufWrite0.opcode c) (some (wireOfBuffer g o)) 0 (bytes.map invert) 0
theorem bufWriteBuf1 (o : Nat) (bytes : List Byte) : Statement (.bufWriteBuf1 o bytes) := fun c g => by
  simpa [encode, Instr.frameLength] using
    frameBytes_length c (WireOp.bufWrite1.opcode c) (some (wireOfBuffer g o)) 0 (bytes.map invert) 0
theorem pageToBufBuf0 (p : Nat) : Statement (.pageToBufBuf0 p) := fun c g => frameBytes_length c _ (some (wireOfPage g p)) 0 [] 0
theorem pageToBufBuf1 (p : Nat) : Statement (.pageToBufBuf1 p) := fun c g => frameBytes_length c _ (some (wireOfPage g p)) 0 [] 0
theorem bufToPageBuf0 (p : Nat) : Statement (.bufToPageBuf0 p) := fun c g => frameBytes_length c _ (some (wireOfPage g p)) 0 [] 0
theorem bufToPageBuf1 (p : Nat) : Statement (.bufToPageBuf1 p) := fun c g => frameBytes_length c _ (some (wireOfPage g p)) 0 [] 0
theorem blockErase (i : Nat) : Statement (.blockErase i) := fun c g =>
  frameBytes_length c (WireOp.blockErase.opcode c) (some (wireOfBlock g i)) 0 [] 0
theorem pageof (a : Addr) : Statement (.pageof a) := fun _ _ => .inl rfl
theorem offsetof (a : Addr) : Statement (.offsetof a) := fun _ _ => .inl rfl
theorem linearof (p o : Nat) : Statement (.linearof p o) := fun _ _ => .inl rfl
theorem pack (p o : Nat) : Statement (.pack p o) := fun _ _ => .inl rfl
theorem split3 (w : Wire) : Statement (.split3 w) := fun _ _ => .inl rfl
theorem xlate (a : Addr) : Statement (.xlate a) := fun _ _ => .inl rfl
theorem commitGeometry (d : Nat) : Statement (.commitGeometry d) := fun _ _ => .inl rfl
theorem endBlock : Statement .endBlock := fun _ _ => .inl rfl

end Sys2Proof.Laws.FrameLength
end

