-- ==== Sys2Proof/Laws/Run.lean ====
section
/-!
SUPPORT. Runs of several steps: one whole status frame, one whole body frame, and what the chip's free answers are after them.
-/

namespace Sys2Proof.Machine

/-! ## Runs -/

@[simp] theorem runSteps_zero (s : State) : runSteps 0 s = .next s := rfl

theorem runSteps_succ {s t : State} (h : step s = .next t) (n : Nat) : runSteps (n + 1) s = runSteps n t := by
  show Host.Core.run Sys2Proof.core (n + 1) s = _
  simp only [Host.Core.run]
  rw [show Sys2Proof.core.step s = .next t from h]

/-- A run goes on where a shorter one stopped. -/
theorem runSteps_add {s t : State} {n : Nat} (h : runSteps n s = .next t) (m : Nat) : runSteps (n + m) s = runSteps m t := by
  induction n generalizing s with
  | zero => cases h; simp
  | succ n ih =>
    cases hs : step s with
    | next u =>
      rw [runSteps_succ hs] at h
      rw [Nat.add_right_comm, runSteps_succ hs, ih h]
    | fault r => cases r
    | refused r => exact absurd h (by
        show Host.Core.run Sys2Proof.core (n + 1) s ≠ _
        simp only [Host.Core.run]
        rw [show Sys2Proof.core.step s = .refused r from hs]
        exact fun h => nomatch h)

theorem step_poll {s : State} (hl : s.cfg.legal = true) (hp : s.pins = []) (h : s.fr.phase = .poll) :
    step s = .next (pollStep s) := by simp [step, hl, hp, advance, h]

theorem step_idle {s : State} (hl : s.cfg.legal = true) (hp : s.pins = []) (h : s.fr.phase = .idle) : step s = clientMove s := by
  simp [step, hl, hp, advance, h]

theorem step_body {s : State} (hl : s.cfg.legal = true) (hp : s.pins = []) (h : s.fr.phase = .body) :
    step s = .next (bodyStep s) := by simp [step, hl, hp, advance, h]

/-- One status frame of the wait, its four micro-steps (R131, R135). -/
theorem runSteps_statusFrame {s : State} (hl : s.cfg.legal = true) (hp : s.pins = []) (h : s.fr.phase = .poll)
    (h0 : s.fr.pos = 0) (hb : s.cfg.pollBudget ≠ some s.polls) : runSteps 4 s = .next (statusFrame s) := by
  have e1 : step s = .next (nextPos (select s)) := by rw [step_poll hl hp h, pollStep_zero h0]; simp [hb]
  rw [runSteps_succ e1,
    runSteps_succ (step_poll (by simpa using hl) (by simpa using hp) (by simpa using h)), pollStep_one (by simp [h0]),
    runSteps_succ (step_poll (by simpa using hl) (by simpa using hp) (by simpa using h)), pollStep_two (by simp [h0]),
    runSteps_succ (step_poll (by simpa using hl) (by simpa using hp) (by simpa using h)), pollStep_last (by simp [h0])]
  rfl

/-! ## Sending and receiving -/

/-- The state with another framer. -/
def withFr (f : Framer) (s : State) : State := { s with fr := f }

@[simp] theorem withFr_fr (f : Framer) (s : State) : (withFr f s).fr = f := rfl
@[simp] theorem withFr_cfg (f : Framer) (s : State) : (withFr f s).cfg = s.cfg := rfl
@[simp] theorem withFr_pins (f : Framer) (s : State) : (withFr f s).pins = s.pins := rfl
@[simp] theorem withFr_withFr (f g : Framer) (s : State) : withFr f (withFr g s) = withFr f s := rfl
theorem withFr_self {f : Framer} {s : State} (h : f = s.fr) : withFr f s = s := by subst h; rfl
theorem transfer_withFr (b : Byte) (f : Framer) (s : State) : transfer b (withFr f s) = withFr f (transfer b s) := rfl
@[simp] theorem chipReply_withFr (f : Framer) (s : State) : chipReply (withFr f s) = chipReply s := rfl

theorem sendAll_append (xs ys : List Byte) (s : State) : sendAll (xs ++ ys) s = sendAll ys (sendAll xs s) := by
  induction xs generalizing s with
  | nil => rfl
  | cons x xs ih => exact ih _

/-- Sending does not read the framer. -/
@[simp] theorem sendAll_withFr (bs : List Byte) (f : Framer) (s : State) :
    sendAll bs (withFr f s) = withFr f (sendAll bs s) := by
  induction bs generalizing s with
  | nil => rfl
  | cons b bs ih => exact ih (transfer b s)

/-- Sending writes the trace and takes the chip's answers; the rest stays. -/
theorem sendAll_keeps (bs : List Byte) (s : State) : (sendAll bs s).cfg = s.cfg ∧ (sendAll bs s).fr = s.fr
    ∧ (sendAll bs s).pins = s.pins ∧ (sendAll bs s).geom = s.geom ∧ (sendAll bs s).ended = s.ended
    ∧ (sendAll bs s).client = s.client ∧ (sendAll bs s).polls = s.polls := by
  induction bs generalizing s with
  | nil => simp [sendAll]
  | cons b bs ih => exact ih (transfer b s)

/-- Receiving does not read the framer. -/
theorem receiveAll_withFr (n : Nat) (f : Framer) (s : State) :
    receiveAll n (withFr f s) = ((receiveAll n s).1, withFr f (receiveAll n s).2) := by
  induction n generalizing s with
  | zero => rfl
  | succ n ih => simp only [receiveAll, transfer_withFr, ih, withFr_cfg, chipReply_withFr]

theorem receiveAll_keeps (n : Nat) (s : State) : (receiveAll n s).2.cfg = s.cfg ∧ (receiveAll n s).2.fr = s.fr
    ∧ (receiveAll n s).2.pins = s.pins ∧ (receiveAll n s).2.geom = s.geom ∧ (receiveAll n s).2.ended = s.ended
    ∧ (receiveAll n s).2.client = s.client ∧ (receiveAll n s).2.polls = s.polls := by
  induction n generalizing s with
  | zero => simp [receiveAll]
  | succ n ih => exact ih (transfer s.cfg.fillByte s)

/-! ## The parts of a body frame -/

theorem run_header {s : State} (hl : s.cfg.legal = true) (hp : s.pins = []) (h : s.fr.phase = .body) (bs : List Byte) (p : Nat)
    (hpos : s.fr.pos = p + 1) (hb : ∀ j, j < bs.length → (header s.cfg s.fr)[p + j]? = bs[j]?) :
    runSteps bs.length s = .next (withFr { s.fr with pos := s.fr.pos + bs.length } (sendAll bs s)) := by
  induction bs generalizing s p with
  | nil => rfl
  | cons b bs ih =>
    have h0 : (header s.cfg s.fr)[p]? = some b := by simpa using hb 0 (by simp)
    have e : step s = .next (withFr { s.fr with pos := s.fr.pos + 1 } (transfer b s)) := by
      rw [step_body hl hp h]; simp [bodyStep, hpos, h0, nextPos, withFr]
    rw [List.length_cons, runSteps_succ e, ih (by simpa using hl) (by simpa using hp) (by simpa using h) (p + 1)
      (by simp [hpos])]
    · simp [sendAll, Nat.add_comm, Nat.add_assoc]
    · intro j hj
      have := hb (j + 1) (by simpa using hj)
      rw [List.getElem?_cons_succ] at this
      rw [← this, Nat.add_right_comm, Nat.add_assoc]
      rfl

theorem run_tx {s : State} (hl : s.cfg.legal = true) (hp : s.pins = []) (h : s.fr.phase = .body) (ts : List Byte)
    (ht : s.fr.tx = ts) (hpos : (header s.cfg s.fr).length < s.fr.pos) :
    runSteps ts.length s = .next (withFr { s.fr with pos := s.fr.pos + ts.length, tx := [] } (sendAll ts s)) := by
  induction ts generalizing s with
  | nil => rw [sendAll, withFr_self (by cases hf : s.fr; simp_all)]; rfl
  | cons t ts ih =>
    obtain ⟨p, hp1⟩ : ∃ p, s.fr.pos = p + 1 := ⟨s.fr.pos - 1, by omega⟩
    have h0 : (header s.cfg s.fr)[p]? = none := by simp; omega
    have e : step s = .next (withFr { s.fr with pos := s.fr.pos + 1, tx := ts } (transfer t s)) := by
      rw [step_body hl hp h]; simp [bodyStep, hp1, h0, ht, nextPos, withFr]
    rw [List.length_cons, runSteps_succ e, ih (by simpa using hl) (by simpa using hp) (by simpa using h) (by simp)
      (by simpa [header] using Nat.lt_succ_of_lt hpos)]
    simp [sendAll, Nat.add_comm, Nat.add_assoc]

theorem run_rx {s : State} (hl : s.cfg.legal = true) (hp : s.pins = []) (h : s.fr.phase = .body) (n : Nat)
    (hn : s.fr.nrx = n) (ht : s.fr.tx = []) (hpos : (header s.cfg s.fr).length < s.fr.pos) :
    runSteps n s = .next (withFr { s.fr with
      pos := s.fr.pos + n, nrx := 0, rx := s.fr.rx ++ (receiveAll n s).1.map (deliver s.fr.cmd) } (receiveAll n s).2) := by
  induction n generalizing s with
  | zero => rw [receiveAll, withFr_self (by cases hf : s.fr; simp_all)]; rfl
  | succ n ih =>
    obtain ⟨p, hp1⟩ : ∃ p, s.fr.pos = p + 1 := ⟨s.fr.pos - 1, by omega⟩
    have h0 : (header s.cfg s.fr)[p]? = none := by simp; omega
    have e : step s = .next (withFr { s.fr with
        pos := s.fr.pos + 1, nrx := n, rx := s.fr.rx ++ [deliver s.fr.cmd (chipReply s)] } (transfer s.cfg.fillByte s)) := by
      rw [step_body hl hp h]; simp [bodyStep, hp1, h0, ht, hn, nextPos, withFr]
    rw [runSteps_succ e, ih (by simpa using hl) (by simpa using hp) (by simpa using h) (by simp)
      (by simpa using ht) (by simpa [header] using Nat.lt_succ_of_lt hpos)]
    simp only [receiveAll_withFr, receiveAll, withFr_withFr, withFr_fr, List.map_cons, List.append_assoc, List.singleton_append,
      Nat.add_assoc, Nat.add_comm 1 n]

/-- The last event of a body frame. -/
theorem step_bodyEnd {s : State} (hl : s.cfg.legal = true) (hp : s.pins = []) (h : s.fr.phase = .body)
    (hpos : (header s.cfg s.fr).length < s.fr.pos) (ht : s.fr.tx = []) (hn : s.fr.nrx = 0) :
    step s = .next (complete (unselect s)) := by
  obtain ⟨p, hp1⟩ : ∃ p, s.fr.pos = p + 1 := ⟨s.fr.pos - 1, by omega⟩
  have h0 : (header s.cfg s.fr)[p]? = none := by simp; omega
  rw [step_body hl hp h]
  simp [bodyStep, hp1, h0, ht, hn]

theorem header_congr {c c' : Config} {f f' : Framer} (hc : c' = c) (h1 : f'.opcode = f.opcode) (h2 : f'.wire = f.wire)
    (h3 : f'.ndummy = f.ndummy) : header c' f' = header c f := by subst hc; simp [header, h1, h2, h3]

/-- The body frame, all its micro-steps (R132, R135). -/
theorem runSteps_bodyFrame {s : State} (hl : s.cfg.legal = true) (hp : s.pins = []) (h : s.fr.phase = .body)
    (h0 : s.fr.pos = 0) : runSteps (bodyLength s.cfg s.fr + 2) s = .next (bodyFrame s) := by
  obtain ⟨u, hu⟩ : ∃ u, u = select s := ⟨_, rfl⟩
  have ul : u.cfg.legal = true := by simpa [hu] using hl
  have up : u.pins = [] := by simpa [hu] using hp
  have uc : u.cfg = s.cfg := by simp [hu]
  have e1 : runSteps 1 s = .next (withFr { s.fr with pos := 1 } u) := by
    rw [runSteps_succ (t := nextPos (select s)) (by rw [step_body hl hp h]; simp [bodyStep, h0]), runSteps_zero]
    simp [nextPos, withFr, hu, h0]
  have e2 := run_header (s := withFr { s.fr with pos := 1 } u) (by simpa using ul) (by simpa using up) (by simpa using h)
    (header s.cfg s.fr) 0 (by simp) (by intro j _; rw [Nat.zero_add]; exact congrArg (·[j]?) (header_congr uc rfl rfl rfl))
  have k1 := sendAll_keeps (header s.cfg s.fr) u
  rw [sendAll_withFr, withFr_withFr] at e2
  have e3 := run_tx (s := withFr { s.fr with pos := 1 + (header s.cfg s.fr).length } (sendAll (header s.cfg s.fr) u))
    (by simpa [k1] using ul) (by simp [k1, up]) (by simpa using h) s.fr.tx (by simp)
    (lt_of_eq_of_lt (congrArg List.length (header_congr (c := s.cfg) (f := s.fr) (by simp [k1, uc]) rfl rfl rfl)) (by simp))
  rw [sendAll_withFr, withFr_withFr, ← sendAll_append] at e3
  have k2 := sendAll_keeps (header s.cfg s.fr ++ s.fr.tx) u
  have e4 := run_rx (s := withFr { s.fr with pos := 1 + (header s.cfg s.fr).length + s.fr.tx.length, tx := [] }
      (sendAll (header s.cfg s.fr ++ s.fr.tx) u))
    (by simpa [k2] using ul) (by simp [k2, up]) (by simpa using h) s.fr.nrx (by simp) (by simp)
    (lt_of_eq_of_lt (congrArg List.length (header_congr (c := s.cfg) (f := s.fr) (by simp [k2, uc]) rfl rfl rfl)) (by simp; omega))
  rw [receiveAll_withFr, withFr_withFr] at e4
  have k3 := receiveAll_keeps s.fr.nrx (sendAll (header s.cfg s.fr ++ s.fr.tx) u)
  have e5 := step_bodyEnd (s := withFr { s.fr with
      pos := 1 + (header s.cfg s.fr).length + s.fr.tx.length + s.fr.nrx, tx := [], nrx := 0,
      rx := s.fr.rx ++ (receiveAll s.fr.nrx (sendAll (header s.cfg s.fr ++ s.fr.tx) u)).1.map (deliver s.fr.cmd) }
      (receiveAll s.fr.nrx (sendAll (header s.cfg s.fr ++ s.fr.tx) u)).2)
    (by simpa [k2, k3] using ul) (by simp [k2, k3, up]) (by simpa using h)
    (lt_of_eq_of_lt (congrArg List.length (header_congr (c := s.cfg) (f := s.fr) (by simp [k2, k3, uc]) rfl rfl rfl)) (by simp; omega)) (by simp) (by simp)
  have hlen : bodyLength s.cfg s.fr + 2
      = 1 + ((header s.cfg s.fr).length + (s.fr.tx.length + (s.fr.nrx + 1))) := by unfold bodyLength; omega
  have hpos : 1 + (header s.cfg s.fr).length + s.fr.tx.length + s.fr.nrx = bodyLength s.cfg s.fr + 1 := by
    unfold bodyLength; omega
  rw [hlen, runSteps_add e1]
  refine (runSteps_add e2 _).trans ((runSteps_add e3 _).trans ((runSteps_add e4 _).trans ((runSteps_succ e5 0).trans ?_)))
  rw [hpos, hu]
  rfl

end Sys2Proof.Machine
end

