-- ==== Sys2Proof/Tests/Slice0.lean ====
section
/-!
SUPPORT. The model's own tests: the WellFormed smoke tests; decoding, with words written out from the spec's encodings (R81 to
R84, R88); single steps, with expected values from 95_test_vectors.md (its ids in the comments) and the rules' examples; and,
for every obligation that has hypotheses, a witness that meets them.
-/

namespace Sys2Proof.Tests

open Machine

/-! ## Small states -/

/-- Committed with the AT45DB041 row, as before the vectors of section 3 of 95_test_vectors.md. -/
def committed : State := { State.reset with geom := { toGeometry := Geometry.at45db041, valid := true } }
def ended : State := { committed with ended := true }
/-- A command of format A in its wait, at an event of the status frame. -/
def waiting (pos polls : Nat) (answers : List Byte) : State :=
  { committed with
    fr := { frame .poll .pageToBuf 0x53 (some 0x001E00) 0 [] 0 with pos := pos }
    sel := decide (pos ≠ 0), polls := polls, answers := answers
    trace := if pos = 0 then [] else .sel :: (List.replicate (pos - 1) (.xfer 0 0)) }
/-- A read of 3 bytes in its body frame. -/
def reading (pos : Nat) (answers : List Byte) : State :=
  { committed with
    fr := { frame .body .readArray 0xE8 (some 0x001E88) 4 [] 3 with pos := pos }
    sel := decide (pos ≠ 0), polls := 1, answers := answers }
/-- Client about to do something. -/
def having (todo : List ClientOp) (program : List Move) (s : State) : State :=
  { s with client := { s.client with todo := todo, program := program } }
def withConfig (c : Config) (s : State) : State := { s with cfg := c }
/-- Parameters with this one row in the table's first place. -/
def withRow (g : Geometry) : State := withConfig { Config.default with geomTable := g :: Geometry.defaultTable.tail } State.reset
def withPins (ps : List Pin) (s : State) : State := { s with pins := ps }
def withSession (p : Nat) (s : State) : State := { s with client := { s.client with session := some p } }
def withResp (d : RespData) (s : State) : State := { s with resp := some { result := .ok, data := d } }
/-- A stub of the AT45DB041, byte 0 of its array written. -/
def stub : Stub :=
  { geom := Geometry.at45db041, density := 7, array := [(0, 0x5A)], buffers := [(3, 0x11)], busy := 0, busyTime := 1, received := [] }

/-- One field of the next state, where there is one. -/
def field {α : Type} (f : State → α) : StepResult → Option α
  | .next t => some (f t)
  | .fault _ => none
  | .refused _ => none

/-! ## WellFormed: an ill-formed term for each check -/

theorem test_wellFormed_density : (Instr.commitGeometry 7).wellFormed = false ∧ (Instr.commitGeometry 6).wellFormed = true := by decide
/-- Page 32768 of address 0x840000 has bit 15 truncated away (T12). -/
theorem test_encodable_read : (Instr.readArray 0x840000 1).encodable Geometry.at45db041 = false
    ∧ (Instr.readArray 0x83FFF 1).encodable Geometry.at45db041 = true := by decide
theorem test_encodable_offset : (Instr.bufWriteBuf0 (2 ^ 24) []).encodable Geometry.at45db041 = false
    ∧ (Instr.bufWriteBuf1 (2 ^ 24) []).encodable Geometry.at45db041 = false := by decide
theorem test_encodable_page : (Instr.pageToBufBuf0 32768).encodable Geometry.at45db041 = false
    ∧ (Instr.pageToBufBuf1 32768).encodable Geometry.at45db041 = false
    ∧ (Instr.bufToPageBuf0 32768).encodable Geometry.at45db041 = false
    ∧ (Instr.bufToPageBuf1 32768).encodable Geometry.at45db041 = false := by decide
theorem test_encodable_block : (Instr.blockErase 4096).encodable Geometry.at45db041 = false := by decide
/-- The rows of format NONE have no frame. -/
theorem test_encodable_none : [Instr.pageof 0, .offsetof 0, .linearof 0 0, .pack 0 0, .split3 0, .xlate 0, .commitGeometry 0,
    .endBlock].all (fun i => !i.encodable Geometry.at45db041) = true := by decide
/-- R25, one row for each constraint. -/
theorem test_legal_row : [(⟨9, 0, 8⟩ : Geometry), ⟨9, 513, 8⟩, ⟨9, 264, 32776⟩, ⟨9, 264, 2044⟩, ⟨9, 264, 0⟩].all (fun g => !g.legal) = true
    ∧ [(⟨9, 1, 8⟩ : Geometry), ⟨9, 512, 8⟩, ⟨9, 264, 32768⟩].all Geometry.legal = true := by decide
/-- R9, the other parameters; the number of buffers is any natural with an opcode for each. -/
theorem test_legal_config : Config.default.legal = true
    ∧ Config.legal { Config.default with geomTable := Geometry.defaultTable.tail } = false
    ∧ Config.legal { Config.default with pollBudget := some 0 } = false
    ∧ Config.legal { Config.default with readyBit := 8 } = false
    ∧ Config.legal { Config.default with opcBufWrite := [0x84] } = false
    ∧ Config.legal { Config.default with opcPageToBuf := [] } = false
    ∧ Config.legal { Config.default with opcBufToPage := [0x83] } = false
    ∧ Config.legal { Config.default with nBuffers := 3 } = false
    ∧ Config.legal { Config.default with sessionBuf := 2 } = false
    ∧ Config.legal { Config.default with nBuffers := 1, sessionBuf := 1 } = true
    ∧ Config.legal { Config.default with nBuffers := 0 } = true := by decide

/-! ## Decode: frames written out from R81 to R84 and the bodies of section 3 -/

def decoded (bytes : List Byte) : Except DecodeError Instr := decode Config.default Geometry.at45db041 bytes
def refusedAs (e : DecodeError) : Except DecodeError Instr → Bool
  | .ok _ => false
  | .error f => decide (f = e)
def decodesTo (i : Instr) : Except DecodeError Instr → Bool
  | .ok j => decide (j = i)
  | .error _ => false

/-- F1. -/
theorem test_decode_statusRead : decodesTo .statusRead (decoded [0b11010111, 0x00]) = true := by decide
/-- F3. -/
theorem test_decode_readArray :
    decodesTo (.readArray 0x1000 3) (decoded [0b11101000, 0x00, 0x1E, 0x88, 0, 0, 0, 0, 0, 0, 0]) = true := by decide
/-- F10. -/
theorem test_decode_bufWriteBuf0 : decodesTo (.bufWriteBuf0 136 [0xAA]) (decoded [0b10000100, 0x00, 0x00, 0x88, 0x55]) = true := by decide
/-- F11. -/
theorem test_decode_bufWriteBuf1 : decodesTo (.bufWriteBuf1 263 [0x00]) (decoded [0b10000111, 0x00, 0x01, 0x07, 0xFF]) = true := by decide
/-- F15. -/
theorem test_decode_pageToBufBuf0 : decodesTo (.pageToBufBuf0 15) (decoded [0b01010011, 0x00, 0x1E, 0x00]) = true := by decide
/-- F16. -/
theorem test_decode_pageToBufBuf1 : decodesTo (.pageToBufBuf1 2047) (decoded [0b01010101, 0x0F, 0xFE, 0x00]) = true := by decide
/-- F18. -/
theorem test_decode_bufToPageBuf0 : decodesTo (.bufToPageBuf0 15) (decoded [0b10000011, 0x00, 0x1E, 0x00]) = true := by decide
/-- F19. -/
theorem test_decode_bufToPageBuf1 : decodesTo (.bufToPageBuf1 1) (decoded [0b10000110, 0x00, 0x02, 0x00]) = true := by decide
/-- F21. -/
theorem test_decode_blockErase : decodesTo (.blockErase 255) (decoded [0b01010000, 0x0F, 0xF0, 0x00]) = true := by decide
/-- The table's words: the rows' `match` values, the bits above them zero. -/
theorem test_decode_table : [0xD7, 0xE8, 0x84, 0x87, 0x53, 0x55, 0x83, 0x86, 0x50].map (decodeTableWord 8) =
    [some .statusRead, some (.readArray 0 0), some (.bufWriteBuf0 0 []), some (.bufWriteBuf1 0 []), some (.pageToBufBuf0 0),
      some (.pageToBufBuf1 0), some (.bufToPageBuf0 0), some (.bufToPageBuf1 0), some (.blockErase 0)] := by decide

/-- R82 and F15: opcode in bits 31..24, wire address in bits 23..0. -/
theorem test_headerWord : headerWord 0x53 0x001E00 = 0x53001E00
    ∧ decodesTo (.pageToBufBuf0 15) (decodeHeaderWord Config.default Geometry.at45db041 0x53001E00) = true
    ∧ decodesTo (.blockErase 255) (decodeHeaderWord Config.default Geometry.at45db041 0x500FF000) = true := by decide

theorem test_decode_refusals : refusedAs .emptyFrame (decoded []) = true
    ∧ refusedAs (.unknownOpcode 0x03) (decoded [0x03, 0, 0, 0]) = true
    ∧ refusedAs .truncatedHeader (decoded [0xD7]) = true
    ∧ refusedAs .truncatedHeader (decoded [0x53, 0, 0]) = true
    ∧ refusedAs .truncatedHeader (decoded [0xE8, 0, 0, 0, 0, 0, 0]) = true
    ∧ refusedAs .notFill (decoded [0xD7, 0xFF]) = true
    ∧ refusedAs .notFill (decoded [0xE8, 0, 0, 0, 0, 0, 0, 1]) = true
    ∧ refusedAs .trailingBytes (decoded [0x53, 0, 0, 0, 0]) = true
    ∧ refusedAs .trailingBytes (decoded [0xD7, 0, 0]) = true
    ∧ refusedAs .nonzeroOffset (decoded [0x83, 0, 0, 1]) = true
    ∧ refusedAs .offsetOutsidePage (decoded [0xE8, 0x00, 0x01, 0x08, 0, 0, 0, 0]) = true
    ∧ refusedAs .pageNotBlockAligned (decoded [0x50, 0x00, 0x02, 0x00]) = true := by decide

/-! ## Single steps -/

/-- F1, K7. -/
theorem test_exec_statusRead : field (fun t => (t.fr.phase, t.fr.nrx, t.fr.wire)) (exec .statusRead State.reset) = some (.body, 1, none)
    ∧ field State.resp (exec .statusRead ended) = some (some ⟨.ended, .bytes []⟩) := by decide
/-- F3, F7: the wire address. -/
theorem test_exec_readArray : field (fun t => t.fr.wire) (exec (.readArray 0x1000 3) committed) = some (some 0x001E88)
    ∧ field (fun t => t.fr.wire) (exec (.readArray 540671 1) committed) = some (some 0x0FFF07) := by decide
/-- F8, F9, F25, K10. -/
theorem test_exec_readArray_fails : field State.resp (exec (.readArray 540672 1) committed) = some (some ⟨.outOfRange, .bytes []⟩)
    ∧ field State.resp (exec (.readArray 540671 2) committed) = some (some ⟨.outOfRange, .bytes []⟩)
    ∧ field State.resp (exec (.readArray 0 1) State.reset) = some (some ⟨.notCommitted, .bytes []⟩)
    ∧ field State.resp (exec (.readArray 540672 1) ended) = some (some ⟨.ended, .bytes []⟩) := by decide
/-- F12, F13. -/
theorem test_exec_bufWriteBuf0 : field (fun t => (t.fr.opcode, t.fr.tx)) (exec (.bufWriteBuf0 0 [0x01, 0x02, 0xFE]) committed) =
      some (0x84, [0xFE, 0xFD, 0x01])
    ∧ field State.resp (exec (.bufWriteBuf0 263 [1, 2]) committed) = some (some ⟨.outOfRange, .bytes []⟩) := by decide
/-- F11. -/
theorem test_exec_bufWriteBuf1 : field (fun t => (t.fr.opcode, t.fr.wire, t.fr.tx)) (exec (.bufWriteBuf1 263 [0x00]) committed) =
    some (0x87, some 0x000107, [0xFF]) := by decide
/-- F15, F17. -/
theorem test_exec_pageToBufBuf0 : field (fun t => (t.fr.opcode, t.fr.wire)) (exec (.pageToBufBuf0 15) committed) = some (0x53, some 0x001E00)
    ∧ field State.resp (exec (.pageToBufBuf0 2048) committed) = some (some ⟨.outOfRange, .bytes []⟩) := by decide
/-- F16. -/
theorem test_exec_pageToBufBuf1 : field (fun t => (t.fr.opcode, t.fr.wire)) (exec (.pageToBufBuf1 2047) committed) =
    some (0x55, some 0x0FFE00) := by decide
/-- F18. -/
theorem test_exec_bufToPageBuf0 : field (fun t => (t.fr.opcode, t.fr.wire)) (exec (.bufToPageBuf0 15) committed) =
    some (0x83, some 0x001E00) := by decide
/-- F19. -/
theorem test_exec_bufToPageBuf1 : field (fun t => (t.fr.opcode, t.fr.wire)) (exec (.bufToPageBuf1 1) committed) =
    some (0x86, some 0x000200) := by decide
/-- F21, F22. -/
theorem test_exec_blockErase : field (fun t => (t.fr.opcode, t.fr.wire)) (exec (.blockErase 255) committed) = some (0x50, some 0x0FF000)
    ∧ field State.resp (exec (.blockErase 256) committed) = some (some ⟨.outOfRange, .bytes []⟩) := by decide
/-- T4, T14. -/
theorem test_exec_pageof : field State.resp (exec (.pageof 0x1000) committed) = some (some ⟨.ok, .nat 15⟩)
    ∧ field State.resp (exec (.pageof 0xFFFFFFFF) committed) = some (some ⟨.ok, .nat 16268815⟩) := by decide
/-- T4, T9. -/
theorem test_exec_offsetof : field State.resp (exec (.offsetof 0x1000) committed) = some (some ⟨.ok, .nat 136⟩)
    ∧ field State.resp (exec (.offsetof 256) committed) = some (some ⟨.ok, .nat 256⟩) := by decide
/-- T31, T32. -/
theorem test_exec_linearof : field State.resp (exec (.linearof 0 264) committed) = some (some ⟨.ok, .nat 264⟩)
    ∧ field State.resp (exec (.linearof 2047 263) committed) = some (some ⟨.ok, .nat 540671⟩) := by decide
/-- T33, T35, T36: an OR, then the truncation. -/
theorem test_exec_pack : field State.resp (exec (.pack 15 136) committed) = some (some ⟨.ok, .nat 0x001E88⟩)
    ∧ field State.resp (exec (.pack 1 512) committed) = some (some ⟨.ok, .nat 0x000200⟩)
    ∧ field State.resp (exec (.pack 32768 0) committed) = some (some ⟨.ok, .nat 0⟩) := by decide
/-- T39, T42: no geometry needed. -/
theorem test_exec_split3 : field State.resp (exec (.split3 0x001E88) committed) = some (some ⟨.ok, .triple 0x00 0x1E 0x88⟩)
    ∧ field State.resp (exec (.split3 0x123456) State.reset) = some (some ⟨.ok, .triple 0x12 0x34 0x56⟩) := by decide
/-- T10, T13. -/
theorem test_exec_xlate : field State.resp (exec (.xlate 540671) committed) = some (some ⟨.ok, .triple 0x0F 0xFF 0x07⟩)
    ∧ field State.resp (exec (.xlate 0x841000) committed) = some (some ⟨.ok, .triple 0x00 0x1E 0x88⟩) := by decide
/-- K1, K2. -/
theorem test_exec_commitGeometry : field State.geom (exec (.commitGeometry 2) State.reset) = some ⟨⟨9, 264, 2048⟩, true⟩
    ∧ field State.geom (exec (.commitGeometry 6) State.reset) = some ⟨⟨11, 1056, 8192⟩, true⟩ := by decide
/-- K3, K4, K5. -/
theorem test_exec_commitGeometry_fails : field State.resp (exec (.commitGeometry 7) State.reset) = some (some ⟨.badOperand, .bytes []⟩)
    ∧ field State.resp (exec (.commitGeometry 2) committed) = some (some ⟨.alreadyCommitted, .bytes []⟩)
    ∧ field State.resp (exec (.commitGeometry 9) committed) = some (some ⟨.badOperand, .bytes []⟩) := by decide
/-- K6, K8. -/
theorem test_exec_end : field (fun t => (t.ended, t.resp)) (exec .endBlock committed) = some (true, some ⟨.ok, .bytes []⟩)
    ∧ field State.resp (exec .endBlock ended) = some (some ⟨.ended, .bytes []⟩) := by decide
/-- F14, K11, K12: a buffer index with no row. -/
theorem test_present_buffer : field State.resp (present (.bufWrite 2 0 [1]) committed) = some (some ⟨.badOperand, .bytes []⟩)
    ∧ field State.resp (present (.bufWrite 5 999 [0]) State.reset) = some (some ⟨.notCommitted, .bytes []⟩)
    ∧ field State.resp (present (.bufWrite 5 999 [0]) committed) = some (some ⟨.badOperand, .bytes []⟩) := by decide
/-- R135, rows POLL 0 to 3, with the answers of F4: busy goes around, ready goes on. -/
theorem test_step_poll : field (fun t => (t.fr.pos, t.trace)) (step (waiting 0 0 [])) = some (1, [.sel])
    ∧ field (fun t => (t.fr.pos, t.fr.sample)) (step (waiting 2 0 [0x1C])) = some (3, 0x1C)
    ∧ field (fun t => (t.fr.phase, t.polls)) (step { waiting 3 0 [] with fr := { (waiting 3 0 []).fr with sample := 0x1C } }) = some (.poll, 1)
    ∧ field (fun t => (t.fr.phase, t.polls)) (step { waiting 3 0 [] with fr := { (waiting 3 0 []).fr with sample := 0x9C } }) = some (.body, 1) := by decide
/-- F6: the budget of 3 is spent. -/
theorem test_step_busTimeout : field (fun t => (t.fr.phase, t.resp, t.trace)) (step (waiting 0 3 [])) =
    some (.idle, some ⟨.busTimeout, .bytes []⟩, []) := by decide
/-- R135, rows BODY 2 and 9, with the bytes of F3: an address byte, then an inverted data byte. -/
theorem test_step_body : field State.trace (step (reading 3 [0x77])) = some [.xfer 0x1E 0x77]
    ∧ field (fun t => t.fr.rx) (step (reading 9 [0x55])) = some [0xAA] := by decide
/-- K14, K15. -/
theorem test_step_reset : field (fun t => (t.trace, t.sel, t.geom)) (step (withPins [.reset] (reading 3 []))) = some ([.unsel], false, GeomReg.reset)
    ∧ field (fun t => (t.trace, t.fr)) (step (withPins [.reset] committed)) = some ([], Framer.reset) := by decide
/-- M1 to M5. -/
theorem test_densityIndex : [(0x9C : Byte), 0x8C, 0xBC, 0xA0, 0x88, 0xAC].map densityIndex =
    [some 2, some 0, some 6, some 2, none, some 4] := by decide
/-- M10, M14, M15, M16: the blocks of an erase of 4096 bytes. -/
theorem test_coveringBlocks : coveringBlocks 15 (erasePageCount Config.default Geometry.at45db041 4096) = [1, 2, 3]
    ∧ coveringBlocks 7 (erasePageCount Config.default ⟨10, 528, 4096⟩ 4096) = [0, 1]
    ∧ coveringBlocks 0 (erasePageCount Config.default ⟨11, 1056, 8192⟩ 4096) = [0]
    ∧ coveringBlocks 2032 (erasePageCount Config.default Geometry.at45db041 4096) = [254, 255, 256] := by decide
/-- M20. -/
theorem test_session_misuse : field (fun t => t.client.result) (step (having [.startSession 0x1000] [] (withSession 3 committed))) =
      some (some (.failed .sessionActive))
    ∧ field (fun t => t.client.result) (step (having [.stopSession] [] committed)) = some (some (.failed .noSession)) := by decide
/-- P3, steps 5 to 7: only the block commands of the spec's table, no translator command among them (R182). -/
theorem test_session_commands : field (fun t => t.client.todo) (step (having [.sessionByte 264 0x33] [] (withSession 0 committed))) =
    some [.call (.bufToPage 0 0), .call (.pageToBuf 0 1), .setActive (some 1), .call (.bufWrite 0 0 [0x33])] := by decide
/-- M16: refused with no command presented, so that `RESP` stays (R185); and P4. -/
theorem test_eraseSized : field (fun t => (t.client.result, t.client.todo, t.resp))
      (step (having [] [.routine (.eraseBlock4K 0x83000)] (withResp (.nat 5) committed))) =
        some (some (.failed (.code .outOfRange)), [], some ⟨.ok, .nat 5⟩)
    ∧ field (fun t => t.client.todo) (step (having [] [.routine (.eraseBlock4K 0x1000)] committed)) =
        some [.call (.row (.blockErase 1)), .call (.row (.blockErase 2)), .call (.row (.blockErase 3)), .finish .unit] := by decide

/-! ## Witnesses: for each obligation, states and operands that meet its hypotheses -/

theorem witness_ResetInputReleasesTheBus :
    ((withPins [.reset] (reading 3 [])).cfg.legal = true ∧ (reading 3 []).sel = true)
    ∧ (withPins [.reset] committed).pins = .reset :: [] ∧ committed.sel = false := by decide
theorem witness_PowerCycleHasNoBusEvent :
    let s := { withPins [.powerCycle] committed with stub := some stub }
    s.cfg.legal = true ∧ s.pins = .powerCycle :: [] ∧ s.stub = some stub := by decide
/-- One row for each constraint of R25. -/
theorem witness_IllegalTablesAreRefused :
    ∀ g ∈ [(⟨9, 0, 8⟩ : Geometry), ⟨9, 513, 8⟩, ⟨9, 264, 32776⟩, ⟨9, 264, 2044⟩, ⟨9, 264, 0⟩],
      g ∈ (withRow g).cfg.geomTable ∧ ¬ (0 < g.pageByteSize ∧ g.pageByteSize ≤ 2 ^ g.pageBitWidth
        ∧ g.totalPages * 2 ^ g.pageBitWidth ≤ 2 ^ 24 ∧ g.totalPages % 8 = 0 ∧ 1 ≤ g.totalPages) := by decide

/-- The three cases of a translator command: ended, not committed, executed. -/
abbrev threeCases (s t u : State) : Prop :=
  s.ended = true ∧ (t.ended = false ∧ t.geom.valid = false) ∧ u.ended = false ∧ u.geom.valid = true
theorem witness_PageOfDividesByPageSize : threeCases ended State.reset committed := by decide
theorem witness_OffsetOfIsTheRemainder : threeCases ended State.reset committed ∧ committed.geom.toGeometry.legal = true := by decide
theorem witness_LinearOfMultipliesAndAdds : threeCases ended State.reset committed := by decide
theorem witness_PackShiftsOrsAndTruncates : threeCases ended State.reset committed := by decide
theorem witness_SplitGivesThreeBytes : ended.ended = true ∧ State.reset.ended = false := by decide
theorem witness_TranslateGivesTheAddressBytes : threeCases ended State.reset committed
    ∧ (0x0FFF07 : Wire).toNat = (((540671 / committed.geom.pageByteSize) <<< committed.geom.pageBitWidth)
        ||| (540671 % committed.geom.pageByteSize)) % 2 ^ 24 := by decide

theorem witness_TranslationRoundTrips : Geometry.at45db041.legal = true ∧ 263 < Geometry.at45db041.pageByteSize := by decide
theorem witness_PageSizeIsNoPowerOfTwo : Geometry.at45db041 ∈ Geometry.defaultTable := by decide
theorem witness_PackingFieldsDoNotOverlap : Geometry.at45db041.legal = true ∧ 263 < Geometry.at45db041.pageByteSize := by decide
/-- T1 and T12 share a wire address. -/
theorem witness_AliasClassesAreExact : Geometry.at45db041.legal = true
    ∧ wireOfLinear Geometry.at45db041 0 = wireOfLinear Geometry.at45db041 0x840000
    ∧ wireOfLinear Geometry.at45db041 0 ≠ wireOfLinear Geometry.at45db041 1 := by decide
theorem witness_InRangeTranslationIsInjective : Geometry.at45db041.legal = true
    ∧ (0 : Addr).toNat < Geometry.at45db041.totalPages * Geometry.at45db041.pageByteSize
    ∧ (540671 : Addr).toNat < Geometry.at45db041.totalPages * Geometry.at45db041.pageByteSize := by decide

theorem witness_CommitWritesTheTableRow : ended.ended = true ∧ (committed.ended = false ∧ 7 ≤ 7)
    ∧ (committed.ended = false ∧ 6 < 7 ∧ committed.geom.valid = true)
    ∧ State.reset.ended = false ∧ 6 < 7 ∧ State.reset.geom.valid = false
      ∧ State.reset.cfg.geomTable[6]? = some ⟨11, 1056, 8192⟩ := by decide
theorem witness_EndRefusesEverythingAfter : committed.ended = false ∧ ended.ended = true := by decide

/-- A committed block whose chip shows busy in the first `k` status frames and then ready. -/
def busyFor (k : Nat) : State := { committed with answers := (List.replicate k [0x00, 0x1C]).flatten ++ [0x00, 0x9C] }

theorem busyFor_undisturbed (k : Nat) : Undisturbed (busyFor k) := ⟨by show Config.default.legal = true; decide, rfl, rfl⟩
/-- Ready at the first status frame, and at the last one the budget of 3 allows. -/
theorem busyFor_ready : (ReadyAtPoll (busyFor 0) 1 ∧ WithinBudget (busyFor 0) 1)
    ∧ ReadyAtPoll (busyFor 2) 3 ∧ WithinBudget (busyFor 2) 3 := by
  refine ⟨⟨⟨by decide, fun j hj => by omega, by decide⟩, fun b h => by cases h; decide⟩,
    ⟨⟨by decide, fun j hj => ?_, by decide⟩, fun b h => by cases h; decide⟩⟩
  obtain rfl | rfl : j = 0 ∨ j = 1 := by omega
  all_goals decide
/-- Busy for the whole budget. -/
theorem busyFor_spent : (busyFor 3).cfg.pollBudget = some 3 ∧ BusyFor (busyFor 3) 3 := by
  refine ⟨rfl, fun j hj => ?_⟩
  obtain rfl | rfl | rfl : j = 0 ∨ j = 1 ∨ j = 2 := by omega
  all_goals decide

theorem witness_StatusReadReturnsTheByteAsReceived : ended.ended = true ∧ (busyFor 0).ended = false ∧ Undisturbed (busyFor 0) :=
  ⟨rfl, rfl, busyFor_undisturbed 0⟩

/-- No buffers, so that no buffer index has an opcode. -/
def noBuffers : State := withConfig { Config.default with nBuffers := 0 } committed

/-- A third buffer with opcodes of this test, so that buffer index 2 has one; the chip as in `busyFor`. -/
def threeBuffers (k : Nat) : State :=
  withConfig
    { Config.default with
      nBuffers := 3, opcBufWrite := [0x84, 0x87, 0x8A], opcPageToBuf := [0x53, 0x55, 0x57], opcBufToPage := [0x83, 0x86, 0x89] }
    (busyFor k)

/-- Buffer index 2: no entry with two buffers; with three an opcode, and both ends of the wait. -/
theorem threeBuffers_cases : committed.cfg.bufOpcode committed.cfg.opcBufWrite 2 = none
    ∧ (∀ t ∈ [(threeBuffers 0).cfg.opcBufWrite, (threeBuffers 0).cfg.opcPageToBuf, (threeBuffers 0).cfg.opcBufToPage], 2 < t.length)
    ∧ (∀ k, (threeBuffers k).ended = false ∧ (threeBuffers k).geom.valid = true ∧ 2 < (threeBuffers k).cfg.nBuffers
        ∧ Undisturbed (threeBuffers k))
    ∧ (ReadyAtPoll (threeBuffers 2) 3 ∧ WithinBudget (threeBuffers 2) 3)
    ∧ (threeBuffers 3).cfg.pollBudget = some 3 ∧ BusyFor (threeBuffers 3) 3 :=
  ⟨by decide, by decide, fun k => ⟨rfl, rfl, by show 2 < 3; decide, by show (threeBuffers 0).cfg.legal = true; decide, rfl, rfl⟩,
    busyFor_ready.2, busyFor_spent⟩

/-- The cases of an address-bearing command: the four refusals at admission (`out` and `inside` its range condition for the
operands of each case), then ready within the budget, at its first and its last status frame, and the budget spent. A request
with a buffer index has the cases of `threeBuffers_cases` as well. -/
abbrev frameCases (out inside : Prop) : Prop :=
  ended.ended = true ∧ (State.reset.ended = false ∧ State.reset.geom.valid = false)
    ∧ (noBuffers.ended = false ∧ noBuffers.geom.valid = true ∧ noBuffers.cfg.nBuffers = 0)
    ∧ (committed.ended = false ∧ committed.geom.valid = true ∧ committed.cfg.boundsCheck = true ∧ out)
    ∧ ((∀ k, (busyFor k).ended = false ∧ (busyFor k).geom.valid = true ∧ Undisturbed (busyFor k)) ∧ inside)
    ∧ (ReadyAtPoll (busyFor 0) 1 ∧ WithinBudget (busyFor 0) 1) ∧ (ReadyAtPoll (busyFor 2) 3 ∧ WithinBudget (busyFor 2) 3)
    ∧ (busyFor 3).cfg.pollBudget = some 3 ∧ BusyFor (busyFor 3) 3

theorem frameCases_met {out inside : Prop} (ho : out) (hi : inside) : frameCases out inside :=
  ⟨rfl, ⟨rfl, rfl⟩, ⟨rfl, rfl, rfl⟩, ⟨rfl, rfl, rfl, ho⟩, ⟨fun k => ⟨rfl, rfl, busyFor_undisturbed k⟩, hi⟩, busyFor_ready.1,
    busyFor_ready.2, busyFor_spent⟩

/-- F8 and F7: the first address outside, and the last byte. -/
theorem witness_ReadArrayReturnsInvertedBytes :
    frameCases (¬ ((540672 : Addr).toNat < committed.geom.totalPages * committed.geom.pageByteSize
        ∧ (540672 : Addr).toNat + 1 ≤ committed.geom.totalPages * committed.geom.pageByteSize))
      ((540671 : Addr).toNat < committed.geom.totalPages * committed.geom.pageByteSize
        ∧ (540671 : Addr).toNat + 1 ≤ committed.geom.totalPages * committed.geom.pageByteSize) :=
  frameCases_met (by decide) (by decide)
/-- F13 and F11. -/
theorem witness_BufWriteSendsInvertedBytes :
    frameCases (¬ (263 < committed.geom.pageByteSize ∧ 263 + 2 ≤ committed.geom.pageByteSize))
      (263 < committed.geom.pageByteSize ∧ 263 + 1 ≤ committed.geom.pageByteSize) :=
  frameCases_met (by decide) (by decide)
/-- F17 and F16. -/
theorem witness_PageToBufSendsThePageAddress :
    frameCases (¬ 2048 < committed.geom.totalPages) (2047 < committed.geom.totalPages) := frameCases_met (by decide) (by decide)
theorem witness_BufToPageSendsThePageAddress :
    frameCases (¬ 2048 < committed.geom.totalPages) (2047 < committed.geom.totalPages) := frameCases_met (by decide) (by decide)
/-- F22 and F21. -/
theorem witness_BlockEraseSendsTheFirstPageOfTheBlock :
    frameCases (¬ 256 < committed.geom.totalPages / 8) (255 < committed.geom.totalPages / 8) := frameCases_met (by decide) (by decide)

theorem witness_TheFrameSentIsTheEncoding : committed.fr.phase = .idle
    ∧ ∃ t, exec (.readArray 0x1000 3) committed = .next t ∧ t.fr.phase ≠ .idle := ⟨rfl, _, rfl, by decide⟩
theorem witness_DecodeInvertsEncode : Config.default.opcodesDistinct = true ∧ Geometry.at45db041.legal = true
    ∧ (Instr.pageToBufBuf0 32767).encodable Geometry.at45db041 = true
    ∧ (Instr.bufWriteBuf1 (2 ^ 24 - 1) [1]).encodable Geometry.at45db041 = true
    ∧ (Instr.readArray 0x83FFFF 2).encodable Geometry.at45db041 = true := by decide

theorem witness_StepRunsThePresentedCommand :
    let s := having [] [.command (.row .statusRead)] committed
    s.cfg.legal = true ∧ s.pins = [] ∧ s.fr.phase = .idle ∧ s.client.todo = [] ∧ s.client.program = .command (.row .statusRead) :: []
      ∧ State.reset.cfg.legal = true ∧ decodeTableWord 8 0xD7 = some .statusRead := by decide
theorem witness_EveryStepAnswers : State.reset.cfg.legal = true ∧ (withRow ⟨9, 264, 0⟩).cfg.legal = false := by decide
theorem witness_TraceGrowsByAtMostOneEvent : ∃ t, step (waiting 1 0 [0x9C]) = .next t := ⟨_, rfl⟩
theorem witness_ClientWaitsWhileACommandIsInFlight : NoReset (waiting 1 0 [0x9C]) ∧ (waiting 1 0 [0x9C]).fr.phase ≠ .idle
    ∧ ∃ t, step (waiting 1 0 [0x9C]) = .next t := ⟨⟨by decide, by decide⟩, by decide, _, rfl⟩
theorem witness_GeometryIsImmutableOnceSet :
    (NoReset committed ∧ committed.geom.valid = true ∧ ∃ t, step committed = .next t)
    ∧ (¬ NoReset (withPins [.reset] committed) ∧ ∃ t, step (withPins [.reset] committed) = .next t)
    ∧ (let s := having [] [.command (.row (.commitGeometry 6))] State.reset
       NoReset s ∧ ∃ t, step s = .next t ∧ t.geom ≠ s.geom)
    ∧ State.reset.ended = false ∧ State.reset.geom.valid = false :=
  ⟨⟨⟨by decide, by decide⟩, rfl, _, rfl⟩, ⟨fun h => h.1 rfl, _, rfl⟩, ⟨⟨by decide, by decide⟩, _, rfl, by decide⟩, rfl, rfl⟩

/-- Nothing in flight: the invariants hold of such states. -/
theorem coherent_idle {s : State} (h : s.fr.phase = .idle) (hg : s.geom.valid = true → s.geom.toGeometry ∈ s.cfg.geomTable)
    (hp : s.polls = 0) : Coherent s where
  committedRow := hg
  endedIdle _ := h
  uncommittedStatus _ h' := absurd h h'
  pollPosition h' := by rw [h] at h'; cases h'
  noResponseInFlight h' := absurd h h'
  pollsWithinBudget b _ := ⟨by omega, fun h' => by rw [h] at h'; cases h'⟩

theorem witness_EndedBlockIsSilent :
    let s := having [] [.command (.row .statusRead)] ended
    Coherent s ∧ s.ended = true ∧ NoReset s ∧ ∃ t, step s = .next t :=
  ⟨coherent_idle rfl (fun _ => by decide) rfl, rfl, ⟨by decide, by decide⟩, _, rfl⟩

/-- A wait inside its first and inside its last status frame. -/
theorem waiting_coherent (polls : Nat) (h : polls < 3) (answers : List Byte) : Coherent (waiting 1 polls answers) where
  committedRow _ := by show Geometry.at45db041 ∈ Geometry.defaultTable; decide
  endedIdle h := by cases h
  uncommittedStatus h := by cases h
  pollPosition _ := ⟨by show FrameCmd.pageToBuf ≠ .statusRead; decide, by show 1 ≤ 3; decide⟩
  noResponseInFlight _ := rfl
  pollsWithinBudget b hb := by
    obtain rfl : (3 : Nat) = b := by simpa [waiting, committed, State.reset, Config.default] using hb
    exact ⟨le_of_lt h, fun _ _ => h⟩

theorem witness_StepKeepsBusDiscipline : BusDiscipline (waiting 1 0 [0x9C]) ∧ (waiting 1 0 [0x9C]).sel = true
    ∧ (waiting 1 0 [0x9C]).pins.head? ≠ some .powerCycle ∧ ∃ t, step (waiting 1 0 [0x9C]) = .next t :=
  ⟨⟨by decide, by decide⟩, by decide, by decide, _, rfl⟩
theorem witness_StepKeepsCoherence : Coherent (waiting 1 2 [0x9C]) ∧ ∃ t, step (waiting 1 2 [0x9C]) = .next t :=
  ⟨waiting_coherent 2 (by decide) _, _, rfl⟩
/-- At rows POLL 3, BODY 0, POLL 1 and POLL 2. -/
theorem witness_StepKeepsReadyBeforeBody :
    (let s := { waiting 3 0 [] with fr := { (waiting 3 0 []).fr with sample := 0x9C }, trace := [.sel, .xfer 0xD7 0, .xfer 0 0x9C] }
     ReadyBeforeBody s ∧ s.fr.phase = .poll ∧ ∃ t, step s = .next t)
    ∧ (let s := { reading 0 [] with trace := [.sel, .xfer 0xD7 0, .xfer 0 0x9C, .unsel] }
       ReadyBeforeBody s ∧ s.fr.phase = .body ∧ s.fr.pos = 0 ∧ ∃ t, step s = .next t)
    ∧ (let s := { waiting 1 0 [] with trace := [.sel] }
       ReadyBeforeBody s ∧ s.fr.phase = .poll ∧ s.fr.pos = 1 ∧ ∃ t, step s = .next t)
    ∧ (let s := { waiting 2 0 [] with trace := [.sel, .xfer 0xD7 0] }
       ReadyBeforeBody s ∧ s.fr.phase = .poll ∧ s.fr.pos = 2 ∧ ∃ t, step s = .next t) :=
  ⟨⟨⟨fun _ => ⟨(fun h => nomatch h), (fun h => nomatch h), fun _ => ⟨[], 0, rfl⟩⟩, fun h => nomatch h⟩, rfl, _, rfl⟩,
    ⟨⟨(fun h => nomatch h), fun _ _ _ => ⟨[], 0, 0x9C, rfl, by decide⟩⟩, rfl, rfl, _, rfl⟩,
    ⟨⟨fun _ => ⟨fun _ => ⟨[], rfl⟩, (fun h => nomatch h), fun h => nomatch h⟩, fun h => nomatch h⟩, rfl, rfl, _, rfl⟩,
    ⟨⟨fun _ => ⟨(fun h => nomatch h), fun _ => ⟨[], 0, rfl⟩, fun h => nomatch h⟩, fun h => nomatch h⟩, rfl, rfl, _, rfl⟩⟩
theorem witness_StepKeepsStubMemoryCanonical :
    let s := { waiting 1 0 [] with stub := some { stub with received := [] } }
    StubCanonical s ∧ ∃ t, step s = .next t :=
  ⟨fun k h => by cases h; decide, _, rfl⟩

/-- The wait has all its budget, and none of it. -/
theorem witness_MicroStepsRefineThePseudocode : ∀ polls ∈ [0, 3], (waiting 0 polls []).cfg.legal = true ∧ (waiting 0 polls []).pins = []
    ∧ (waiting 0 polls []).cfg.pollBudget = some 3 ∧ (waiting 0 polls []).fr.phase = .poll ∧ (waiting 0 polls []).fr.pos = 0
    ∧ (waiting 0 polls []).polls ≤ 3 := by decide
theorem witness_OnlyAnInfiniteBudgetHangs :
    (let s := withConfig { Config.default with pollBudget := none } (waiting 0 0 [0x00, 0x1C])
     Undisturbed s ∧ s.cfg.pollBudget = none ∧ s.fr.phase = .poll ∧ s.fr.pos = 0 ∧ BusyFor s 1 ∧ 4 ≤ 4 * 1)
    ∧ (waiting 1 2 []).cfg.legal = true ∧ (waiting 1 2 []).pins = [] ∧ Coherent (waiting 1 2 [])
      ∧ (waiting 1 2 []).cfg.pollBudget = some 3 ∧ (waiting 1 2 []).fr.phase ≠ .idle :=
  ⟨⟨⟨by decide, rfl, rfl⟩, rfl, rfl, rfl, fun j hj => by obtain rfl : j = 0 := (by omega); decide, by decide⟩,
    by decide, rfl, waiting_coherent 2 (by decide) _, rfl, by decide⟩

/-- What every statement about a client's action asks of the state. -/
abbrev atAction (s : State) (op : ClientOp) (rest : List ClientOp) : Prop :=
  s.cfg.legal = true ∧ s.pins = [] ∧ s.fr.phase = .idle ∧ s.client.todo = op :: rest

theorem witness_SessionMisuseFailsFast :
    (atAction (having [.startSession 0] [] (withSession 3 committed)) (.startSession 0) []
      ∧ (having [.startSession 0] [] (withSession 3 committed)).client.session = some 3)
    ∧ (atAction (having [.sessionByte 0 1] [] committed) (.sessionByte 0 1) []
      ∧ (having [.sessionByte 0 1] [] committed).client.session = none)
    ∧ atAction (having [.stopSession] [] committed) .stopSession []
      ∧ (having [.stopSession] [] committed).client.session = none := by decide
/-- No session; then the active page is the target, and the next page is (P3, step 5). -/
theorem witness_PageCrossingFlushesThenFetches :
    (let s := having [.startSession 262] [] committed
     atAction s (.startSession 262) [] ∧ s.client.session = none ∧ 0 = (262 : Addr).toNat / s.geom.pageByteSize)
    ∧ (let s := having [.sessionByte 263 0x22] [] (withSession 0 committed)
       atAction s (.sessionByte 263 0x22) [] ∧ s.client.session = some 0 ∧ 0 = (263 : Addr).toNat / s.geom.pageByteSize)
    ∧ (let s := having [.sessionByte 264 0x33] [] (withSession 0 committed)
       atAction s (.sessionByte 264 0x33) [] ∧ s.client.session = some 0 ∧ 1 = (264 : Addr).toNat / s.geom.pageByteSize ∧ 1 ≠ 0)
    ∧ (let s := having [.stopSession] [] (withSession 1 committed)
       atAction s .stopSession [] ∧ s.client.session = some 1 ∧ 0 = (0 : Addr).toNat / s.geom.pageByteSize)
    ∧ atAction (having [.setActive none] [] committed) (.setActive none) [] := by decide
theorem witness_RoutineStopsAtAFailure :
    (let s := having [.check, .finish .unit] [] { committed with resp := some ⟨.busTimeout, .bytes []⟩ }
     atAction s .check [.finish .unit] ∧ s.resp = some ⟨.busTimeout, .bytes []⟩ ∧ Result.busTimeout ≠ .ok)
    ∧ (let s := having [.checkDetect, .finish (.bool true)] [] { committed with resp := some ⟨.alreadyCommitted, .bytes []⟩ }
       atAction s .checkDetect [.finish (.bool true)] ∧ s.resp = some ⟨.alreadyCommitted, .bytes []⟩
        ∧ Result.alreadyCommitted ≠ .ok) := by decide
/-- An attempt's first byte is 0, and is not; then the expected density and another (M1, M5b), and a byte that is not ready with
budget left and with the budget of 3 spent. -/
theorem witness_DetectionCommitsOnlyAMatch :
    (∀ b ∈ [(0x00 : Byte), 0x1C],
      let s := withResp (.bytes [b]) (having [.detectFirst 9 2] [] State.reset)
      atAction s (.detectFirst 9 2) [] ∧ s.resp = some ⟨.ok, .bytes [b]⟩)
    ∧ (∀ b ∈ [(0x9C : Byte), 0xAC, 0x1C], ∀ polls ∈ [0, 3],
      let s := withResp (.bytes [b]) (having [.detectPoll 9 polls 2] [] State.reset)
      atAction s (.detectPoll 9 polls 2) [] ∧ s.resp = some ⟨.ok, .bytes [b]⟩ ∧ ∃ t, step s = .next t)
    ∧ (0x9C : Byte).getLsbD State.reset.cfg.readyBit = true ∧ densityIndex 0x9C = some 2
    ∧ (0xAC : Byte).getLsbD State.reset.cfg.readyBit = true ∧ densityIndex 0xAC ≠ some 2
    ∧ (0x1C : Byte).getLsbD State.reset.cfg.readyBit = false ∧ State.reset.cfg.pollBudget ≠ some 0
    ∧ State.reset.cfg.pollBudget = some 3 :=
  ⟨by decide, fun b hb polls hp => ⟨by revert b polls; decide, rfl, by
    simp only [List.mem_cons, List.not_mem_nil, or_false] at hb hp
    rcases hb with rfl | rfl | rfl <;> rcases hp with rfl | rfl <;> exact ⟨_, rfl⟩⟩, by decide⟩
/-- M6 and M8: another density in one attempt, no chip in the others. -/
theorem witness_DetectionRejectsAnotherDensity :
    let s := having [] [.routine (.detectAndCommit 2)] { State.reset with answers := [0x00, 0xAC] ++ List.replicate 18 0x00 }
    Undisturbed s ∧ s.fr.phase = .idle ∧ s.ended = false ∧ s.client.todo = []
      ∧ s.client.program = .routine (.detectAndCommit 2) :: []
      ∧ (∀ j, j < 10 → freeAnswer s (2 * j + 1) = 0
          ∨ ready s.cfg (freeAnswer s (2 * j + 1)) = true ∧ densityIndex (freeAnswer s (2 * j + 1)) ≠ some 2) := by
  refine ⟨⟨by decide, rfl, rfl⟩, rfl, rfl, rfl, rfl, fun j hj => ?_⟩
  interval_cases j
  · exact .inr ⟨by decide, by decide⟩
  all_goals exact .inl (by decide)
theorem witness_ReadBytesReturnsTheArrayRun :
    let s := having [] [.routine (.readBytes 540671 1)] (busyFor 2)
    Undisturbed s ∧ s.fr.phase = .idle ∧ s.ended = false ∧ s.geom.valid = true ∧ s.client.todo = []
      ∧ s.client.program = .routine (.readBytes 540671 1) :: []
      ∧ (540671 : Addr).toNat < s.geom.totalPages * s.geom.pageByteSize
      ∧ (540671 : Addr).toNat + 1 ≤ s.geom.totalPages * s.geom.pageByteSize ∧ ReadyAtPoll s 3 ∧ WithinBudget s 3 :=
  ⟨busyFor_undisturbed 2, rfl, rfl, rfl, rfl, rfl, by decide, by decide, busyFor_ready.2.1, busyFor_ready.2.2⟩
/-- M10 and M16: all blocks exist, and block 256 does not; and the latter with the check off. -/
theorem witness_SizedEraseChecksBeforeItErases :
    (let s := having [] [.routine (.eraseSized 0x1000 4096)] committed
     s.cfg.legal = true ∧ s.pins = [] ∧ s.fr.phase = .idle ∧ s.geom.valid = true ∧ s.client.todo = []
      ∧ s.client.program = .routine (.eraseSized 0x1000 4096) :: [] ∧ s.cfg.boundsCheck = true
      ∧ [1, 2, 3] = coveringBlocks ((0x1000 : Addr).toNat / s.geom.pageByteSize)
          (ceilDiv 4096 s.geom.pageByteSize + s.cfg.eraseMarginPages)
      ∧ (0x1000 : Addr).toNat < s.geom.totalPages * s.geom.pageByteSize ∧ ∀ i ∈ [1, 2, 3], i < s.geom.totalPages / 8)
    ∧ (let s := having [] [.routine (.eraseBlock4K 0x83000)] committed
       s.client.program = .routine (.eraseBlock4K 0x83000) :: [] ∧ s.cfg.boundsCheck = true
        ∧ [254, 255, 256] = coveringBlocks ((0x83000 : Addr).toNat / s.geom.pageByteSize)
            (ceilDiv 4096 s.geom.pageByteSize + s.cfg.eraseMarginPages)
        ∧ ¬ ((0x83000 : Addr).toNat < s.geom.totalPages * s.geom.pageByteSize ∧ ∀ i ∈ [254, 255, 256], i < s.geom.totalPages / 8))
    ∧ (let s := withConfig { Config.default with boundsCheck := false } (having [] [.routine (.eraseBlock4K 0x83000)] committed)
       s.cfg.legal = true ∧ s.cfg.boundsCheck = false) := by
  decide
theorem witness_SleepAndWakeupDoNothing : ∀ r ∈ [Routine.sleep, .wakeup],
    let s := having [] [.routine r] committed
    (r = .sleep ∨ r = .wakeup) ∧ s.cfg.legal = true ∧ s.pins = [] ∧ s.fr.phase = .idle ∧ s.client.todo = []
      ∧ s.client.program = .routine r :: [] := by decide
/-- The last byte of the array. -/
theorem witness_WriteThenReadBackOnTheStub : Config.default.legal = true ∧ Config.default.opcodesDistinct = true
    ∧ Config.default.nBuffers = 2 ∧ stub.geom.legal = true ∧ stub.array.wf = true ∧ stub.buffers.wf = true
    ∧ (540671 : Addr).toNat < stub.geom.totalPages * stub.geom.pageByteSize := by decide

/-- The last page the page field holds. -/
theorem witness_HeaderWordHoldsOpcodeAndAddress : Config.default.opcodesDistinct = true ∧ Geometry.at45db041.legal = true
    ∧ ∀ i ∈ [Instr.pageToBufBuf0 32767, .pageToBufBuf1 32767, .bufToPageBuf0 32767, .bufToPageBuf1 32767, .blockErase 4095],
      i.encodable Geometry.at45db041 = true := by decide

end Sys2Proof.Tests
end

section
/-!
PROOFS of the register family: what a step does to `GEOM` (R23), said once, and the rule on what runs before a commit.
-/

namespace Sys2Proof.Machine

/-! ## What the shared operations do to `GEOM` -/

@[simp] theorem withClient_geom (c : Client) (s : State) : (withClient c s).geom = s.geom := rfl
@[simp] theorem withClient_cfg (c : Client) (s : State) : (withClient c s).cfg = s.cfg := rfl

@[simp] theorem resetInput_geom (s : State) : (resetInput s).geom = GeomReg.reset := rfl

@[simp] theorem pollStep_geom (s : State) : (pollStep s).geom = s.geom := by
  unfold pollStep
  split
  · split <;> simp
  all_goals simp

@[simp] theorem bodyStep_geom (s : State) : (bodyStep s).geom = s.geom := by
  obtain ⟨-, h⟩ | ⟨b, ts, n, rx, -, h⟩ | ⟨-, -, -, -, h⟩ := bodyStep_cases s <;> simp [h]

/-! ## `GEOM` over a step -/

/-- All that a step with no reset may do to `GEOM`: keep it, or commit a row of the table where nothing was committed. -/
inductive GeomMove (table : List Geometry) (g : GeomReg) : GeomReg → Prop
  | kept : GeomMove table g g
  | committed (row : Geometry) (hv : g.valid = false) (hr : row ∈ table) :
      GeomMove table g { toGeometry := row, valid := true }

theorem Presented.geomMove {s t : State} (h : Presented s t) : GeomMove s.cfg.geomTable s.geom t.geom := by
  cases h with
  | answered r d => exact .kept
  | status he => exact .kept
  | addressed cmd opc wire ndummy tx nrx he hv hc => exact .kept
  | committed row he hv hr => exact .committed row hv hr
  | ended he => exact .kept

theorem ClientDoes.geomMove {s t : State} (h : ClientDoes s t) : GeomMove s.cfg.geomTable s.geom t.geom := by
  obtain ⟨c, rfl | hp⟩ := h
  · exact .kept
  · simpa using hp.geomMove

theorem step_geomMove {s t : State} (h : step s = .next t) (hn : NoReset s) :
    GeomMove s.cfg.geomTable s.geom t.geom := by
  obtain ⟨-, ⟨hp, -⟩ | ⟨hp, -⟩ | ⟨-, -, rfl⟩ | ⟨-, -, rfl⟩ | ⟨-, -, hc⟩⟩ := step_cases h
  · exact absurd hp hn.1
  · exact absurd hp hn.2
  · simpa using GeomMove.kept
  · simpa using GeomMove.kept
  · simpa using hc.geomMove

theorem GeomMove.eq_of_valid {table : List Geometry} {g g' : GeomReg} (h : GeomMove table g g') (hv : g.valid = true) :
    g' = g := by
  cases h with
  | kept => rfl
  | committed row hv' hr => simp [hv] at hv'

theorem GeomMove.row_of_ne {table : List Geometry} {g g' : GeomReg} (h : GeomMove table g g') (hne : g' ≠ g) :
    g.valid = false ∧ g'.valid = true ∧ g'.toGeometry ∈ table := by
  cases h with
  | kept => exact absurd rfl hne
  | committed row hv hr => exact ⟨hv, rfl, hr⟩

/-- R230 to R232: the reset input and a power cycle alike. -/
theorem step_geom_of_reset {s t : State} (h : step s = .next t) (hn : ¬ NoReset s) : t.geom = GeomReg.reset := by
  obtain ⟨-, ⟨-, rfl⟩ | ⟨-, rfl⟩ | ⟨hn', -⟩ | ⟨hn', -⟩ | ⟨hn', -⟩⟩ := step_cases h
  · simp
  · simp
  all_goals exact absurd hn' hn

/-! ## Before a commit (R110, R130, R206) -/

theorem answerTranslation_uncommitted {s : State} (he : s.ended = false) (hv : s.geom.valid = false)
    (f : Geometry → RespData) : answerTranslation f s = .next (refuse .notCommitted s) := by
  simp [answerTranslation, he, hv]

theorem admitAddressed_uncommitted {s : State} (he : s.ended = false) (hv : s.geom.valid = false) (cmd : FrameCmd)
    (opc : Option Byte) (inRange : Bool) (wire : Wire) (ndummy : Nat) (tx : List Byte) (nrx : Nat) :
    admitAddressed cmd opc inRange wire ndummy tx nrx s = .next (refuse .notCommitted s) := by
  simp [admitAddressed, he, hv]

/-- R206: `Ended` does not apply, so the check for a committed geometry is the first to answer. -/
theorem exec_uncommitted {i : Instr} {s : State} (he : s.ended = false) (hv : s.geom.valid = false)
    (hstatus : i ≠ .statusRead) (hend : i ≠ .endBlock) (hcommit : ∀ d, i ≠ .commitGeometry d)
    (hsplit : ∀ w, i ≠ .split3 w) : exec i s = .next (refuse .notCommitted s) := by
  cases i with
  | statusRead => exact absurd rfl hstatus
  | endBlock => exact absurd rfl hend
  | commitGeometry d => exact absurd rfl (hcommit d)
  | split3 w => exact absurd rfl (hsplit w)
  | pageof a => simp only [exec, execPageof, answerTranslation_uncommitted he hv]
  | offsetof a => simp only [exec, execOffsetof, answerTranslation_uncommitted he hv]
  | linearof p o => simp only [exec, execLinearof, answerTranslation_uncommitted he hv]
  | pack p o => simp only [exec, execPack, answerTranslation_uncommitted he hv]
  | xlate a => simp only [exec, execXlate, answerTranslation_uncommitted he hv]
  | readArray a n => simp only [exec, execReadArray, admitAddressed_uncommitted he hv]
  | bufWriteBuf0 o bytes => exact admitAddressed_uncommitted he hv ..
  | bufWriteBuf1 o bytes => exact admitAddressed_uncommitted he hv ..
  | pageToBufBuf0 p => exact admitAddressed_uncommitted he hv ..
  | pageToBufBuf1 p => exact admitAddressed_uncommitted he hv ..
  | bufToPageBuf0 p => exact admitAddressed_uncommitted he hv ..
  | bufToPageBuf1 p => exact admitAddressed_uncommitted he hv ..
  | blockErase k => simp only [exec, execBlockErase, admitAddressed_uncommitted he hv]

/-- Settles O34: a step keeps `GEOM`, commits a row of the table where nothing was committed, or resets it; and the admission
checks refuse every other command before a commit. -/
theorem geometryIsImmutableOnceSet : Obligations.GeometryIsImmutableOnceSet :=
  ⟨fun _ _ h hn => (step_geomMove h hn).eq_of_valid,
    fun _ _ h hn => by rw [step_geom_of_reset h hn]; rfl,
    fun _ _ h hne hn => (step_geomMove h hn).row_of_ne hne,
    fun _ _ => exec_uncommitted⟩

end Sys2Proof.Machine
end

section
/-!
PROOFS of the translator family: the arithmetic of the translation said once (R111 to R116, R120, R123), the three bytes of a
wire address (R117), what a translator command answers (R110), and the rules assembled from them.
-/

namespace Sys2Proof.Machine

/-! ## The linear address and its two parts (R111 to R114) -/

@[simp] theorem linearOf_pageOf_offsetOf (g : Geometry) (a : Nat) : linearOf g (pageOf g a) (offsetOf g a) = a :=
  Nat.div_add_mod' a g.pageByteSize

/-- The quotient beside `Nat.mul_add_mod_of_lt`. -/
theorem mul_add_div_of_lt {o n : Nat} (ho : o < n) (p : Nat) : (p * n + o) / n = p :=
  Nat.div_eq_of_lt_le (Nat.le_add_right ..) (by rw [Nat.succ_mul]; exact Nat.add_lt_add_left ho _)

theorem pageOf_linearOf {g : Geometry} {o : Nat} (ho : o < g.pageByteSize) (p : Nat) : pageOf g (linearOf g p o) = p := by
  rw [pageOf, linearOf, mul_add_div_of_lt ho]

theorem offsetOf_linearOf {g : Geometry} {o : Nat} (ho : o < g.pageByteSize) (p : Nat) : offsetOf g (linearOf g p o) = o := by
  rw [offsetOf, linearOf, Nat.mul_add_mod_of_lt ho]

/-- The page of an address below `T * S` is below `T`. -/
theorem pageOf_lt_totalPages {g : Geometry} {a : Nat} (ha : a < g.totalPages * g.pageByteSize) : pageOf g a < g.totalPages :=
  Nat.div_lt_of_lt_mul (by rwa [Nat.mul_comm])

/-! ## The packed address and its two fields (R115, R123) -/

/-- An offset inside the page fits the offset field (R25, R123). -/
theorem lt_field_of_lt_size {g : Geometry} (hg : g.legal = true) {o : Nat} (ho : o < g.pageByteSize) :
    o < 2 ^ g.pageBitWidth := by
  obtain ⟨-, hsize, -⟩ := (Geometry.legal_iff g).1 hg
  exact lt_of_lt_of_le ho hsize

/-- The page field and the offset field make up the wire address (R85). -/
theorem two_pow_fields {g : Geometry} (hg : g.legal = true) : 2 ^ g.pageBitWidth * 2 ^ (24 - g.pageBitWidth) = 2 ^ 24 := by
  rw [← Nat.pow_add, Nat.add_sub_of_le (Geometry.width_le hg)]

section
variable {g : Geometry} {o : Nat} (ho : o < 2 ^ g.pageBitWidth) (p : Nat)
include ho

theorem packed_eq_add : packed g p o = p * 2 ^ g.pageBitWidth + o := by
  rw [packed, ← Nat.shiftLeft_add_eq_or_of_lt ho, Nat.shiftLeft_eq]

theorem packed_mod_field : packed g p o % 2 ^ g.pageBitWidth = o := by
  rw [packed_eq_add ho, Nat.mul_add_mod_of_lt ho]

theorem packed_div_field : packed g p o / 2 ^ g.pageBitWidth = p := by
  rw [packed_eq_add ho, mul_add_div_of_lt ho]

end

/-- Where the offset fits its field, the packed address determines page and offset. -/
theorem packed_inj {g : Geometry} {p q o r : Nat} (ho : o < 2 ^ g.pageBitWidth) (hr : r < 2 ^ g.pageBitWidth)
    (h : packed g p o = packed g q r) : p = q ∧ o = r :=
  ⟨by rw [← packed_div_field ho p, h, packed_div_field hr], by rw [← packed_mod_field ho p, h, packed_mod_field hr]⟩

/-- A page below `T` and an offset inside its field pack into 24 bits (R25, R124). -/
theorem packed_lt_of_lt_totalPages {g : Geometry} (hg : g.legal = true) {p o : Nat} (hp : p < g.totalPages)
    (ho : o < 2 ^ g.pageBitWidth) : packed g p o < 2 ^ 24 := by
  obtain ⟨-, -, hpages, -⟩ := (Geometry.legal_iff g).1 hg
  calc packed g p o = p * 2 ^ g.pageBitWidth + o := packed_eq_add ho p
    _ < (p + 1) * 2 ^ g.pageBitWidth := by rw [Nat.succ_mul]; exact Nat.add_lt_add_left ho _
    _ ≤ g.totalPages * 2 ^ g.pageBitWidth := Nat.mul_le_mul_right _ hp
    _ ≤ 2 ^ 24 := hpages

/-! ## The wire address (R116, R120) -/

theorem wireOf_toNat (g : Geometry) (p o : Nat) : (wireOf g p o).toNat = packed g p o % 2 ^ 24 := BitVec.toNat_ofNat ..

/-- The page bits that the truncation to 24 bits keeps. -/
theorem shiftLeft_width_mod {g : Geometry} (hg : g.legal = true) (p : Nat) :
    (p <<< g.pageBitWidth) % 2 ^ 24 = (p % 2 ^ (24 - g.pageBitWidth)) <<< g.pageBitWidth := by
  rw [Nat.shiftLeft_eq, Nat.shiftLeft_eq, ← two_pow_fields hg, Nat.mul_comm (2 ^ g.pageBitWidth), Nat.mul_mod_mul_right]

/-- R120, R122: page bits above the page field and offset bits above bit 23 are lost, for any offset. -/
theorem wireOf_mod_fields {g : Geometry} (hg : g.legal = true) (p o : Nat) :
    wireOf g p o = wireOf g (p % 2 ^ (24 - g.pageBitWidth)) (o % 2 ^ 24) := by
  apply BitVec.eq_of_toNat_eq
  simp only [wireOf_toNat, packed, Nat.or_mod_two_pow, shiftLeft_width_mod hg, Nat.mod_mod]

/-- The offset field reads back (R123). -/
theorem offsetField_wireOf {g : Geometry} (hg : g.legal = true) {o : Nat} (ho : o < 2 ^ g.pageBitWidth) (p : Nat) :
    offsetField g (wireOf g p o) = o := by
  rw [offsetField, wireOf_toNat, ← two_pow_fields hg, Nat.mod_mul_right_mod, packed_mod_field ho]

/-- The page field holds the page modulo its width (R120, R123). -/
theorem pageField_wireOf {g : Geometry} (hg : g.legal = true) {o : Nat} (ho : o < 2 ^ g.pageBitWidth) (p : Nat) :
    pageField g (wireOf g p o) = p % 2 ^ (24 - g.pageBitWidth) := by
  rw [pageField, wireOf_toNat, ← two_pow_fields hg, Nat.mod_mul_right_div_self, packed_div_field ho]

/-- R124: below `T * S` the truncation to 24 bits drops nothing. -/
theorem wireOfLinear_toNat_of_inRange {g : Geometry} (hg : g.legal = true) {a : Addr}
    (ha : a.toNat < g.totalPages * g.pageByteSize) :
    (wireOfLinear g a).toNat = packed g (pageOf g a.toNat) (offsetOf g a.toNat) := by
  rw [wireOfLinear, wireOf_toNat,
    Nat.mod_eq_of_lt (packed_lt_of_lt_totalPages hg (pageOf_lt_totalPages ha) (offsetOf_lt_field hg _))]

theorem wireOfLinear_inj_of_inRange {g : Geometry} (hg : g.legal = true) {a b : Addr}
    (ha : a.toNat < g.totalPages * g.pageByteSize) (hb : b.toNat < g.totalPages * g.pageByteSize)
    (h : wireOfLinear g a = wireOfLinear g b) : a = b := by
  have hpacked : packed g (pageOf g a.toNat) (offsetOf g a.toNat) = packed g (pageOf g b.toNat) (offsetOf g b.toNat) := by
    rw [← wireOfLinear_toNat_of_inRange hg ha, h, wireOfLinear_toNat_of_inRange hg hb]
  obtain ⟨hpage, hoffset⟩ := packed_inj (offsetOf_lt_field hg _) (offsetOf_lt_field hg _) hpacked
  apply BitVec.eq_of_toNat_eq
  rw [← linearOf_pageOf_offsetOf g a.toNat, hpage, hoffset, linearOf_pageOf_offsetOf]

/-! ## The three bytes of a wire address (R117) -/

theorem extractByte_eq_ofNat (w : Wire) (k : Nat) : w.extractLsb' k 8 = BitVec.ofNat 8 (w.toNat / 2 ^ k % 2 ^ 8) := by
  apply BitVec.eq_of_toNat_eq
  simp [Nat.shiftRight_eq_div_pow]

theorem splitData_eq_ofNat (w : Wire) :
    splitData w = .triple (BitVec.ofNat 8 (w.toNat / 2 ^ 16 % 2 ^ 8)) (BitVec.ofNat 8 (w.toNat / 2 ^ 8 % 2 ^ 8))
      (BitVec.ofNat 8 (w.toNat % 2 ^ 8)) := by
  rw [splitData, wireHigh, wireMid, wireLow, extractByte_eq_ofNat, extractByte_eq_ofNat, extractByte_eq_ofNat, Nat.pow_zero,
    Nat.div_one]

/-! ## What a translator command answers (R110, R206) -/

section
variable {s : State} (f : Geometry → RespData)

theorem answerTranslation_ended (he : s.ended = true) : answerTranslation f s = .next (refuse .ended s) := by
  simp [answerTranslation, he]

theorem answerTranslation_committed (he : s.ended = false) (hv : s.geom.valid = true) :
    answerTranslation f s = .next (respond .ok (f s.geom.toGeometry) s) := by
  simp [answerTranslation, he, hv]

end

theorem exec_pageof (a : Addr) (s : State) :
    exec (.pageof a) s = answerTranslation (fun g => .nat (pageOf g a.toNat)) s := rfl
theorem exec_offsetof (a : Addr) (s : State) :
    exec (.offsetof a) s = answerTranslation (fun g => .nat (offsetOf g a.toNat)) s := rfl
theorem exec_pack (p o : Nat) (s : State) :
    exec (.pack p o) s = answerTranslation (fun g => .nat (wireOf g p o).toNat) s := rfl
theorem exec_xlate (a : Addr) (s : State) :
    exec (.xlate a) s = answerTranslation (fun g => splitData (wireOfLinear g a)) s := rfl

theorem exec_split3_ended (w : Wire) {s : State} (he : s.ended = true) : exec (.split3 w) s = .next (refuse .ended s) := by
  simp [exec, execSplit3, he]

/-- `SPLIT3` does not look at `GEOM` (R117). -/
theorem exec_split3_answers (w : Wire) {s : State} (he : s.ended = false) :
    exec (.split3 w) s = .next (respond .ok (splitData w) s) := by
  simp [exec, execSplit3, he]

/-! ## The rules -/

/-- Settles O12: quotient and remainder by the page size give the address back, and are read off `p * S + o`. -/
theorem translationRoundTrips : Obligations.TranslationRoundTrips :=
  fun g _ => ⟨linearOf_pageOf_offsetOf g, fun p _ ho => ⟨pageOf_linearOf ho p, offsetOf_linearOf ho p⟩⟩

/-- Settles O14: the wire address bit by bit, and for an offset inside the page the two fields of the sum. -/
theorem packingFieldsDoNotOverlap : Obligations.PackingFieldsDoNotOverlap := by
  intro g p o hg
  refine ⟨wireOf_mod_fields hg p o, fun ho => ?_⟩
  have hfield := lt_field_of_lt_size hg ho
  exact ⟨packed_eq_add hfield p, offsetField_wireOf hg hfield p, pageField_wireOf hg hfield p⟩

/-- Settles O16: below `T * S` the packed address has 24 bits, and it determines page and offset. -/
theorem inRangeTranslationIsInjective : Obligations.InRangeTranslationIsInjective :=
  fun _ _ _ hg ha hb => ⟨wireOfLinear_toNat_of_inRange hg ha, wireOfLinear_inj_of_inRange hg ha hb⟩

/-- Settles O6: the admission cases of R110 with the quotient as the value. -/
theorem pageOfDividesByPageSize : Obligations.PageOfDividesByPageSize := by
  intro a s
  rw [exec_pageof]
  exact ⟨answerTranslation_ended _, fun he hv => answerTranslation_uncommitted he hv _, answerTranslation_committed _⟩

/-- Settles O7: the admission cases of R110 with the remainder as the value, which is below S and so fits the offset field. -/
theorem offsetOfIsTheRemainder : Obligations.OffsetOfIsTheRemainder := by
  intro a s
  rw [exec_offsetof]
  exact ⟨answerTranslation_ended _, fun he hv => answerTranslation_uncommitted he hv _, answerTranslation_committed _,
    fun hg => ⟨offsetOf_lt_size hg _, offsetOf_lt_field hg _⟩⟩

/-- Settles O9: the admission cases of R110 with the low 24 bits of the packed address as the value. -/
theorem packShiftsOrsAndTruncates : Obligations.PackShiftsOrsAndTruncates := by
  intro p o s
  rw [exec_pack]
  refine ⟨answerTranslation_ended _, fun he hv => answerTranslation_uncommitted he hv _, fun he hv => ?_⟩
  rw [answerTranslation_committed _ he hv, wireOf_toNat]
  rfl

/-- Settles O10: `Ended` or the three bytes, whatever `GEOM` holds. -/
theorem splitGivesThreeBytes : Obligations.SplitGivesThreeBytes := by
  refine fun w s => ⟨exec_split3_ended w, fun he => ?_⟩
  rw [exec_split3_answers w he, splitData_eq_ofNat]
  rfl

/-- Settles O11: the admission cases of R110, and the value is the bytes of the one wire address with the given number. -/
theorem translateGivesTheAddressBytes : Obligations.TranslateGivesTheAddressBytes := by
  intro a s
  rw [exec_xlate]
  refine ⟨answerTranslation_ended _, fun he hv => answerTranslation_uncommitted he hv _, fun he hv w hw => ?_⟩
  have hwire : wireOfLinear s.geom.toGeometry a = w :=
    BitVec.eq_of_toNat_eq ((wireOf_toNat ..).trans hw.symm)
  rw [answerTranslation_committed _ he hv, hwire, splitData_eq_ofNat]
  rfl

end Sys2Proof.Machine
end

section
/-!
PROOFS of the framer family: what the bus primitives do when the chip's answers are free, a whole frame and the wait made of
them (R131, R132), the admission of an address-bearing command (R130), and the five commands on the bus assembled from these.
-/

namespace Sys2Proof.Machine

/-! ## The free answers of a chip with no stub (R4) -/

theorem chipReply_of_noStub {s : State} (h : s.stub = none) : chipReply s = freeAnswer s 0 := by
  cases ha : s.answers <;> simp [chipReply, freeAnswer, h, ha]

theorem freeAnswer_transfer (tx : Byte) (s : State) (j : Nat) : freeAnswer (transfer tx s) j = freeAnswer s (1 + j) := by
  cases ha : s.answers <;> simp [freeAnswer, ha, Nat.add_comm, Nat.add_left_comm]

/-! ## What crosses the bus between two states -/

/-- From `s` to `t` exactly these events cross the bus, `n` of them transfers with a free chip; besides the trace and the
chip's answers only `SEL`, `FR`, `POLLS` and `RESP` may have changed. -/
structure BusRun (s t : State) (n : Nat) (events : List BusEvent) : Prop where
  trace : t.trace = s.trace ++ events
  answers : ∀ j, freeAnswer t j = freeAnswer s (n + j)
  geom : t.geom = s.geom
  ended : t.ended = s.ended
  cfg : t.cfg = s.cfg
  client : t.client = s.client
  pins : t.pins = s.pins
  stub : t.stub = s.stub

namespace BusRun

variable {s t u : State} {n m : Nat} {es fs : List BusEvent}

theorem trans (h : BusRun s t n es) (h' : BusRun t u m fs) : BusRun s u (n + m) (es ++ fs) where
  trace := by rw [h'.trace, h.trace, List.append_assoc]
  answers j := by rw [h'.answers, h.answers, Nat.add_assoc]
  geom := h'.geom.trans h.geom
  ended := h'.ended.trans h.ended
  cfg := h'.cfg.trans h.cfg
  client := h'.client.trans h.client
  pins := h'.pins.trans h.pins
  stub := h'.stub.trans h.stub

/-- `FR`, `POLLS` and `RESP` are not on the bus. -/
theorem withRegisters (h : BusRun s t n es) (f : Framer) (polls : Nat) (resp : Option Resp) :
    BusRun s { t with fr := f, polls := polls, resp := resp } n es :=
  { h with }

theorem refl (s : State) : BusRun s s 0 [] where
  trace := (List.append_nil _).symm
  answers j := by rw [Nat.zero_add]
  geom := rfl
  ended := rfl
  cfg := rfl
  client := rfl
  pins := rfl
  stub := rfl

theorem select (h : s.stub = none) : BusRun s (select s) 0 [.sel] :=
  { refl s with trace := rfl, stub := by simp [h] }

theorem unselect (h : s.stub = none) : BusRun s (unselect s) 0 [.unsel] :=
  { refl s with trace := rfl, stub := by simp [h] }

theorem transfer (h : s.stub = none) (tx : Byte) : BusRun s (transfer tx s) 1 [.xfer tx (freeAnswer s 0)] :=
  { refl s with
    trace := by rw [transfer_trace, chipReply_of_noStub h]
    answers := freeAnswer_transfer tx s
    stub := by simp [h] }

theorem noStub (h : BusRun s t n es) (hs : s.stub = none) : t.stub = none := h.stub.trans hs

theorem sendAll (h : s.stub = none) (bs : List Byte) :
    BusRun s (sendAll bs s) bs.length (bs.mapIdx fun j b => .xfer b (freeAnswer s j)) := by
  induction bs generalizing s with
  | nil => exact refl s
  | cons b bs ih =>
    have first := transfer h b
    have later := first.trans (ih (first.noStub h))
    simpa [Machine.sendAll, first.answers, Nat.add_comm] using later

/-- A whole frame (R80). -/
theorem frame (h : s.stub = none) (bs : List Byte) :
    BusRun s (Machine.unselect (Machine.sendAll bs (Machine.select s))) bs.length (frameTrace bs (freeAnswer s)) := by
  have opened := (select h).trans (sendAll (s := Machine.select s) (by simp [h]) bs)
  have whole := opened.trans (unselect (opened.noStub h))
  have hanswer : freeAnswer (Machine.select s) = freeAnswer s := rfl
  simpa [frameTrace, hanswer] using whole

/-- A run that leaves the framer idle and the bus released ends its command (R134, R205). -/
theorem endsCommand (h : BusRun s t n es) {polls : Nat} {r : Result} {data : List Byte} (hpolls : t.polls = polls)
    (hresp : t.resp = some { result := r, data := .bytes data }) (hidle : t.fr.phase = .idle) (hsel : t.sel = false) :
    EndsCommand s t polls r data es where
  resp := hresp
  trace := h.trace
  polls := hpolls
  idle := hidle
  released := hsel
  geom := h.geom
  notEnded := h.ended
  params := h.cfg
  client := h.client
  pins := h.pins
  stub := h.stub

end BusRun

/-! ## The body frame (R132) -/

/-- The bytes a body frame hands to the client, the chip answering `answer 0, answer 1, ...`. -/
def received (c : Config) (f : Framer) (answer : Nat → Byte) : List Byte :=
  f.rx ++ (List.range f.nrx).map fun j => deliver f.cmd (answer ((header c f ++ f.tx).length + j))

/-- To receive is to send fill bytes. -/
theorem receiveAll_snd (n : Nat) (s : State) : (receiveAll n s).2 = sendAll (List.replicate n s.cfg.fillByte) s := by
  induction n generalizing s with
  | zero => rfl
  | succ n ih => exact ih (transfer s.cfg.fillByte s)

theorem receiveAll_fst {s : State} (h : s.stub = none) (n : Nat) :
    (receiveAll n s).1 = (List.range n).map (freeAnswer s) := by
  induction n generalizing s with
  | zero => rfl
  | succ n ih =>
    have first := BusRun.transfer h s.cfg.fillByte
    simp [receiveAll, chipReply_of_noStub h, ih (first.noStub h), List.range_succ_eq_map, first.answers, Function.comp_def,
      Nat.add_comm]

theorem bodyLength_eq (c : Config) (f : Framer) : bodyLength c f = (bytesToSend c f).length := by
  simp [bodyLength, bytesToSend]; omega

/-- The body frame is a whole frame of the bytes to send, and what it received is the response. -/
theorem bodyFrame_eq {s : State} (h : s.stub = none) :
    bodyFrame s = { unselect (sendAll (bytesToSend s.cfg s.fr) (select s)) with
      fr := { s.fr with
        phase := .idle, pos := bodyLength s.cfg s.fr + 1, tx := [], nrx := 0, rx := received s.cfg s.fr (freeAnswer s) }
      polls := s.polls
      resp := some { result := .ok, data := .bytes (received s.cfg s.fr (freeAnswer s)) } } := by
  obtain ⟨sent, hsent⟩ : ∃ sent, sent = sendAll (header s.cfg s.fr ++ s.fr.tx) (select s) := ⟨_, rfl⟩
  obtain ⟨hcfg, -, -, -, -, -, hpolls⟩ := sendAll_keeps (header s.cfg s.fr ++ s.fr.tx) (select s)
  have hrun := (BusRun.select h).trans (BusRun.sendAll (s := select s) (by simp [h]) (header s.cfg s.fr ++ s.fr.tx))
  have hall : sendAll (bytesToSend s.cfg s.fr) (select s) = (receiveAll s.fr.nrx sent).2 := by
    rw [receiveAll_snd, bytesToSend, sendAll_append, hsent, hcfg, select_cfg]
  have hreceived : received s.cfg s.fr (freeAnswer s)
      = s.fr.rx ++ (receiveAll s.fr.nrx sent).1.map (deliver s.fr.cmd) := by
    rw [hsent, receiveAll_fst (hrun.noStub h), List.map_map, received]
    simp [hrun.answers, Function.comp_def]
  have hpolls' : (receiveAll s.fr.nrx sent).2.polls = s.polls := by
    obtain ⟨-, -, -, -, -, -, hkeeps⟩ := receiveAll_keeps s.fr.nrx sent
    rw [hkeeps, hsent, hpolls, select_polls]
  rw [hall, hreceived, ← hpolls', hsent]
  rfl

theorem bodyFrame_busRun {s : State} (h : s.stub = none) :
    BusRun s (bodyFrame s) (bytesToSend s.cfg s.fr).length (frameTrace (bytesToSend s.cfg s.fr) (freeAnswer s)) := by
  rw [bodyFrame_eq h]
  exact (BusRun.frame h (bytesToSend s.cfg s.fr)).withRegisters ..

/-! ## The wait (R131) -/

theorem statusFrame_busRun {s : State} (h : s.stub = none) :
    BusRun s (statusFrame s) 2 (frameTrace [s.cfg.opcStatusRead, s.cfg.fillByte] (freeAnswer s)) :=
  (BusRun.frame h [s.cfg.opcStatusRead, s.cfg.fillByte]).withRegisters (statusFrame s).fr (s.polls + 1) s.resp

/-- The second answer of a status frame is the status byte. -/
theorem statusFrame_fr {s : State} (h : s.stub = none) : (statusFrame s).fr =
    { s.fr with phase := phaseAfter s.cfg (freeAnswer s 1), pos := 0, sample := freeAnswer s 1 } := by
  have asked := (BusRun.select h).trans (BusRun.transfer (s := select s) (by simp [h]) s.cfg.opcStatusRead)
  have hstatus : chipReply (transfer s.cfg.opcStatusRead (select s)) = freeAnswer s 1 := by
    rw [chipReply_of_noStub (asked.noStub h), asked.answers]
  simp only [statusFrame, hstatus]

/-- `t` is the wait begun at `s` after `k` status frames that showed busy. -/
structure WaitedBusy (s t : State) (k : Nat) : Prop where
  bus : BusRun s t (2 * k) (pollTrace s.cfg (freeAnswer s) k)
  polls : t.polls = k
  fr : t.fr = { s.fr with sample := t.fr.sample }
  released : 0 < k → t.sel = false

/-- Where the wait of an admitted command begins (R130). -/
structure WaitBegins (s : State) : Prop where
  phase : s.fr.phase = .poll
  pos : s.fr.pos = 0
  polls : s.polls = 0
  undisturbed : Undisturbed s

section
variable {s t : State} {k : Nat}

theorem WaitedBusy.bus_statusFrame (h : WaitedBusy s t k) (hs : s.stub = none) :
    BusRun s (statusFrame t) (2 * (k + 1)) (pollTrace s.cfg (freeAnswer s) (k + 1)) := by
  have next := h.bus.trans (statusFrame_busRun (h.bus.noStub hs))
  rwa [h.bus.cfg, funext h.bus.answers] at next

theorem WaitedBusy.statusFrame_fr (h : WaitedBusy s t k) (hs : s.stub = none) : (statusFrame t).fr =
    { s.fr with
      phase := phaseAfter s.cfg (freeAnswer s (2 * k + 1)), pos := 0, sample := freeAnswer s (2 * k + 1) } := by
  rw [Machine.statusFrame_fr (h.bus.noStub hs), h.fr, h.bus.cfg, h.bus.answers]

theorem WaitedBusy.runSteps_statusFrame (h : WaitedBusy s t k) (hw : WaitBegins s) (hrun : runSteps (4 * k) s = .next t)
    (hb : WithinBudget s (k + 1)) : runSteps (4 * (k + 1)) s = .next (statusFrame t) := by
  obtain ⟨hl, hp, -⟩ := hw.undisturbed
  refine (runSteps_add hrun 4).trans (Machine.runSteps_statusFrame ?_ ?_ ?_ ?_ fun hspent => ?_)
  · rw [h.bus.cfg, hl]
  · rw [h.bus.pins, hp]
  · rw [h.fr, hw.phase]
  · rw [h.fr, hw.pos]
  · have := hb t.polls (h.bus.cfg ▸ hspent)
    rw [h.polls] at this
    omega

/-- The wait while the chip is busy and the budget lasts. -/
theorem runSteps_busy (hw : WaitBegins s) (k : Nat) (hbusy : BusyFor s k) (hb : WithinBudget s k) :
    ∃ t, runSteps (4 * k) s = .next t ∧ WaitedBusy s t k := by
  induction k with
  | zero => exact ⟨s, rfl, BusRun.refl s, hw.polls, rfl, fun h => absurd h (by omega)⟩
  | succ k ih =>
    obtain ⟨t, hrun, ht⟩ := ih (fun j hj => hbusy j (by omega)) fun b hbudget => by have := hb b hbudget; omega
    obtain ⟨-, -, hs⟩ := hw.undisturbed
    refine ⟨statusFrame t, ht.runSteps_statusFrame hw hrun hb, ht.bus_statusFrame hs, congrArg (· + 1) ht.polls, ?_,
      fun _ => rfl⟩
    rw [ht.statusFrame_fr hs, (phaseAfter_poll ..).2 (hbusy k (by omega)), ← hw.phase, ← hw.pos]

/-- The budget spent on status frames that all show busy (R131, R203). -/
theorem runSteps_busTimeout (hw : WaitBegins s) {n : Nat} (hn : s.cfg.pollBudget = some n) (hbusy : BusyFor s n) :
    ∃ u, runSteps (4 * n + 1) s = .next u ∧ EndsCommand s u n .busTimeout [] (pollTrace s.cfg (freeAnswer s) n) := by
  obtain ⟨hl, hp, -⟩ := hw.undisturbed
  obtain ⟨t, hrun, ht⟩ := runSteps_busy hw n hbusy fun b hb => by rw [hn] at hb; cases hb; exact le_rfl
  have hpos : 0 < n := Nat.pos_of_ne_zero fun h0 => Config.budget_pos hl (h0 ▸ hn)
  have hstep : step t = .next (raise .busTimeout t) := by
    rw [step_poll (by rw [ht.bus.cfg, hl]) (by rw [ht.bus.pins, hp]) (by rw [ht.fr, hw.phase]),
      pollStep_zero (by rw [ht.fr, hw.pos]), if_pos (by rw [ht.bus.cfg, hn, ht.polls])]
  have hbus : BusRun s (raise .busTimeout t) _ _ := ht.bus.withRegisters ..
  exact ⟨_, (runSteps_add hrun 1).trans (runSteps_succ hstep 0), hbus.endsCommand ht.polls rfl rfl (ht.released hpos)⟩

/-- The wait until status frame `k` shows ready, and then the body frame (R131, R132, R134). -/
theorem runSteps_ready (hw : WaitBegins s) (hready : ReadyAtPoll s k) (hb : WithinBudget s k) :
    ∃ u, runSteps (4 * k + (bytesToSend s.cfg s.fr).length + 2) s = .next u
      ∧ EndsCommand s u k .ok (received s.cfg s.fr fun j => freeAnswer s (2 * k + j))
          (pollTrace s.cfg (freeAnswer s) k
            ++ frameTrace (bytesToSend s.cfg s.fr) fun j => freeAnswer s (2 * k + j)) := by
  obtain ⟨hl, hp, hs⟩ := hw.undisturbed
  obtain ⟨hk, hbusy, hshows⟩ := hready
  obtain ⟨m, rfl⟩ : ∃ m, k = m + 1 := ⟨k - 1, by omega⟩
  obtain ⟨t, hrun, ht⟩ := runSteps_busy hw m hbusy fun b hbudget => by have := hb b hbudget; omega
  have hrun' := ht.runSteps_statusFrame hw hrun hb
  have hbus := ht.bus_statusFrame hs
  have hfr := ht.statusFrame_fr hs
  rw [show 2 * m + 1 = 2 * (m + 1) - 1 by omega, (phaseAfter_body ..).2 hshows] at hfr
  have hpolls : (statusFrame t).polls = m + 1 := congrArg (· + 1) ht.polls
  generalize statusFrame t = v at hrun' hbus hfr hpolls
  have hsent : bytesToSend v.cfg v.fr = bytesToSend s.cfg s.fr := by rw [hbus.cfg, hfr]; rfl
  have hgot : received v.cfg v.fr (freeAnswer v) = received s.cfg s.fr fun j => freeAnswer s (2 * (m + 1) + j) := by
    rw [hbus.cfg, hfr, funext hbus.answers]; rfl
  have hbody : runSteps (bodyLength v.cfg v.fr + 2) v = .next (bodyFrame v) :=
    runSteps_bodyFrame (by rw [hbus.cfg, hl]) (by rw [hbus.pins, hp]) (by rw [hfr]) (by rw [hfr])
  have hwhole := hbus.trans (bodyFrame_busRun (hbus.noStub hs))
  rw [hsent, funext hbus.answers] at hwhole
  rw [bodyLength_eq, hsent] at hbody
  refine ⟨bodyFrame v, by rw [Nat.add_assoc, runSteps_add hrun', hbody], ?_⟩
  rw [bodyFrame_eq (hbus.noStub hs), hgot] at hwhole ⊢
  exact hwhole.endsCommand hpolls rfl rfl rfl

end

/-! ## Admission (R130, R206) -/

/-- Admission writes none of what the end of a command is compared with. -/
theorem EndsCommand.of_admitted {s u : State} {f : Framer} {polls : Nat} {r : Result} {data : List Byte}
    {events : List BusEvent} (h : EndsCommand (admitted f s) u polls r data events) : EndsCommand s u polls r data events :=
  { h with }

section
variable {s : State} (cmd : FrameCmd) {opc : Option Byte} {b : Byte} {inRange : Bool} (wire : Wire) (ndummy : Nat)
  (tx : List Byte) (nrx : Nat)

theorem admitAddressed_ended (he : s.ended = true) :
    admitAddressed cmd opc inRange wire ndummy tx nrx s = .next (refuse .ended s) := by
  simp [admitAddressed, he]

theorem admitAddressed_noOpcode (he : s.ended = false) (hv : s.geom.valid = true) :
    admitAddressed cmd none inRange wire ndummy tx nrx s = .next (refuse .badOperand s) := by
  simp [admitAddressed, he, hv]

theorem admitAddressed_outOfRange (he : s.ended = false) (hv : s.geom.valid = true) (hc : s.cfg.boundsCheck = true)
    (hr : inRange = false) : admitAddressed cmd (some b) inRange wire ndummy tx nrx s = .next (refuse .outOfRange s) := by
  simp [admitAddressed, he, hv, hc, hr]

theorem admitAddressed_admits (he : s.ended = false) (hv : s.geom.valid = true)
    (hr : s.cfg.boundsCheck = true → inRange = true) :
    admitAddressed cmd (some b) inRange wire ndummy tx nrx s
      = .next (admitted (frame .poll cmd b (some wire) ndummy tx nrx) s) := by
  have hin : (s.cfg.boundsCheck && !inRange) = false := by
    cases hc : s.cfg.boundsCheck
    · rfl
    · simp [hr hc]
  simp [admitAddressed, he, hv, hin]

theorem received_frame (c : Config) (phase : Phase) (answer : Nat → Byte) :
    received c (frame phase cmd b (some wire) ndummy tx nrx) answer
      = (List.range nrx).map fun j => deliver cmd (answer (4 + ndummy + tx.length + j)) := by
  have hlength : (header c (frame phase cmd b (some wire) ndummy tx nrx) ++ tx).length = 4 + ndummy + tx.length := by
    simp [header, frame]; omega
  rw [← hlength]
  rfl

/-- An address-bearing command, from its admission checks to its end on the bus. -/
theorem runsAsFrame_of_admitAddressed {run : State → StepResult} {P : Prop}
    (hrun : run s = admitAddressed cmd opc inRange wire ndummy tx nrx s) (hP : inRange = true ↔ P) :
    RunsAsFrame run s opc P
      (fun b => [b] ++ wireBytes wire ++ List.replicate ndummy s.cfg.fillByte ++ tx ++ List.replicate nrx s.cfg.fillByte)
      (fun answer => (List.range nrx).map fun j => deliver cmd (answer (4 + ndummy + tx.length + j))) where
  ended he := by rw [hrun, admitAddressed_ended _ _ _ _ _ he]
  notCommitted he hv := by rw [hrun, admitAddressed_uncommitted he hv]
  badOperand he hv ho := by rw [hrun, ho, admitAddressed_noOpcode _ _ _ _ _ he hv]
  outOfRange b he hv ho hc hout := by
    rw [hrun, ho, admitAddressed_outOfRange _ _ _ _ _ he hv hc (Bool.eq_false_iff.2 fun h => hout (hP.1 h))]
  runs b he hv ho hin := by
    have hw : Undisturbed s → WaitBegins (admitted (frame .poll cmd b (some wire) ndummy tx nrx) s) :=
      fun hu => ⟨rfl, rfl, rfl, hu⟩
    refine ⟨frame .poll cmd b (some wire) ndummy tx nrx, ?_, rfl, rfl, rfl, rfl, fun hu k hready hb => ?_,
      fun hu n hn hbusy => ?_⟩
    · rw [hrun, ho, admitAddressed_admits _ _ _ _ _ he hv fun hc => hP.2 (hin hc)]; rfl
    · obtain ⟨u, hsteps, hends⟩ := runSteps_ready (hw hu) hready hb
      rw [admitted_fr, received_frame] at hends
      exact ⟨u, hsteps, hends.of_admitted⟩
    · obtain ⟨u, hsteps, hends⟩ := runSteps_busTimeout (hw hu) hn hbusy
      exact ⟨u, hsteps, hends.of_admitted⟩

/-- A command that sends its opcode and an address and nothing else (R82). -/
theorem runsAsFrame_of_addressOnly {run : State → StepResult} {P : Prop}
    (hrun : run s = admitAddressed cmd opc inRange wire 0 [] 0 s) (hP : inRange = true ↔ P) :
    RunsAsFrame run s opc P (fun b => [b] ++ wireBytes wire) (fun _ => []) := by
  simpa using runsAsFrame_of_admitAddressed cmd wire 0 [] 0 hrun hP

end

/-! ## The operands of a request with a buffer index (R89; log 13) -/

theorem present_bufWrite (buf o : Nat) (bytes : List Byte) (s : State) :
    present (.bufWrite buf o bytes) s = admitBufWrite buf o bytes s := by
  match buf with
  | 0 | 1 | _ + 2 => rfl

theorem present_pageToBuf (buf p : Nat) (s : State) : present (.pageToBuf buf p) s = admitPageToBuf buf p s := by
  match buf with
  | 0 | 1 | _ + 2 => rfl

theorem present_bufToPage (buf p : Nat) (s : State) : present (.bufToPage buf p) s = admitBufToPage buf p s := by
  match buf with
  | 0 | 1 | _ + 2 => rfl

theorem linearRunInRange_iff (g : Geometry) (a : Addr) (n : Nat) : linearRunInRange g a n = true ↔
    a.toNat < g.totalPages * g.pageByteSize ∧ a.toNat + n ≤ g.totalPages * g.pageByteSize := by
  rw [linearRunInRange, Bool.and_eq_true, decide_eq_true_eq, decide_eq_true_eq, capacity]

theorem bufferRunInRange_iff (g : Geometry) (o n : Nat) :
    bufferRunInRange g o n = true ↔ o < g.pageByteSize ∧ o + n ≤ g.pageByteSize := by
  simp [bufferRunInRange]

theorem pageInRange_iff (g : Geometry) (p : Nat) : pageInRange g p = true ↔ p < g.totalPages := by
  simp [pageInRange]

theorem blockInRange_iff (g : Geometry) (i : Nat) : blockInRange g i = true ↔ i < g.totalPages / 8 := by
  simp [blockInRange]

/-! ## The commands -/

theorem runsAsFrame_of_admitBufWrite {run : State → StepResult} {s : State} {buf o : Nat} {bytes : List Byte}
    (hrun : run s = admitBufWrite buf o bytes s) :
    RunsAsFrame run s (s.cfg.bufOpcode s.cfg.opcBufWrite buf)
      (o < s.geom.pageByteSize ∧ o + bytes.length ≤ s.geom.pageByteSize)
      (fun b => [b] ++ wireBytes (wireOfBuffer s.geom.toGeometry o) ++ bytes.map invert) (fun _ => []) := by
  simpa using runsAsFrame_of_admitAddressed .bufWrite (wireOfBuffer s.geom.toGeometry o) 0 (bytes.map invert) 0 hrun
    (bufferRunInRange_iff s.geom.toGeometry o bytes.length)

theorem runsAsFrame_of_admitPageToBuf {run : State → StepResult} {s : State} {buf p : Nat}
    (hrun : run s = admitPageToBuf buf p s) :
    RunsAsFrame run s (s.cfg.bufOpcode s.cfg.opcPageToBuf buf) (p < s.geom.totalPages)
      (fun b => [b] ++ wireBytes (wireOfPage s.geom.toGeometry p)) (fun _ => []) :=
  runsAsFrame_of_addressOnly .pageToBuf (wireOfPage s.geom.toGeometry p) hrun (pageInRange_iff s.geom.toGeometry p)

theorem runsAsFrame_of_admitBufToPage {run : State → StepResult} {s : State} {buf p : Nat}
    (hrun : run s = admitBufToPage buf p s) :
    RunsAsFrame run s (s.cfg.bufOpcode s.cfg.opcBufToPage buf) (p < s.geom.totalPages)
      (fun b => [b] ++ wireBytes (wireOfPage s.geom.toGeometry p)) (fun _ => []) :=
  runsAsFrame_of_addressOnly .bufToPage (wireOfPage s.geom.toGeometry p) hrun (pageInRange_iff s.geom.toGeometry p)

/-- Settles O22: the frame of `XLATE a` with 4 dummy bytes, the data being the answers after its 8 header bytes, inverted. -/
theorem readArrayReturnsInvertedBytes : Obligations.ReadArrayReturnsInvertedBytes := by
  intro a n s
  have hframe := runsAsFrame_of_admitAddressed (run := exec (.readArray a n)) (opc := some s.cfg.opcReadArray) .readArray
    (wireOfLinear s.geom.toGeometry a) Config.nDummyRead [] n rfl (linearRunInRange_iff s.geom.toGeometry a n)
  simp only [List.append_nil] at hframe
  exact hframe

/-- Settles O23: the frame of the buffer write, the same for both rows and for a request with any buffer index. -/
theorem bufWriteSendsInvertedBytes : Obligations.BufWriteSendsInvertedBytes :=
  fun _ _ _ => ⟨runsAsFrame_of_admitBufWrite (buf := 0) rfl, runsAsFrame_of_admitBufWrite (buf := 1) rfl,
    fun _ => runsAsFrame_of_admitBufWrite (present_bufWrite ..)⟩

/-- Settles O24: opcode and page address, the same for both rows and for a request with any buffer index. -/
theorem pageToBufSendsThePageAddress : Obligations.PageToBufSendsThePageAddress :=
  fun _ _ => ⟨runsAsFrame_of_admitPageToBuf (buf := 0) rfl, runsAsFrame_of_admitPageToBuf (buf := 1) rfl,
    fun _ => runsAsFrame_of_admitPageToBuf (present_pageToBuf ..)⟩

/-- Settles O25: opcode and page address, the same for both rows and for a request with any buffer index. -/
theorem bufToPageSendsThePageAddress : Obligations.BufToPageSendsThePageAddress :=
  fun _ _ => ⟨runsAsFrame_of_admitBufToPage (buf := 0) rfl, runsAsFrame_of_admitBufToPage (buf := 1) rfl,
    fun _ => runsAsFrame_of_admitBufToPage (present_bufToPage ..)⟩

/-- Settles O26: opcode and the address of page `8 * i`. -/
theorem blockEraseSendsTheFirstPageOfTheBlock : Obligations.BlockEraseSendsTheFirstPageOfTheBlock :=
  fun i s => runsAsFrame_of_addressOnly .blockErase (wireOfBlock s.geom.toGeometry i) rfl
    (blockInRange_iff s.geom.toGeometry i)

end Sys2Proof.Machine
end

section
/-!
PROOFS of the control family: what every command answers in mode ENDED (R161), the cases of a commit (R160), and the two rules
assembled from them.
-/

namespace Sys2Proof.Machine

/-! ## Mode ENDED (R161, R206) -/

/-- `Ended` is the first check of every command, whether it translates, goes out on the bus or controls the block. -/
theorem exec_ended {s : State} (he : s.ended = true) (i : Instr) : exec i s = .next (refuse .ended s) := by
  cases i with
  | statusRead => simp only [exec, execStatusRead, he, if_true]
  | commitGeometry d => simp only [exec, execCommitGeometry, he, if_true]
  | endBlock => simp only [exec, execEnd, he, if_true]
  | split3 w => exact exec_split3_ended w he
  | pageof a => simp only [exec, execPageof, answerTranslation_ended _ he]
  | offsetof a => simp only [exec, execOffsetof, answerTranslation_ended _ he]
  | linearof p o => simp only [exec, execLinearof, answerTranslation_ended _ he]
  | pack p o => simp only [exec, execPack, answerTranslation_ended _ he]
  | xlate a => simp only [exec, execXlate, answerTranslation_ended _ he]
  | readArray a n => simp only [exec, execReadArray, admitAddressed_ended _ _ _ _ _ he]
  | bufWriteBuf0 o bytes => exact admitAddressed_ended _ _ _ _ _ he
  | bufWriteBuf1 o bytes => exact admitAddressed_ended _ _ _ _ _ he
  | pageToBufBuf0 p => exact admitAddressed_ended _ _ _ _ _ he
  | pageToBufBuf1 p => exact admitAddressed_ended _ _ _ _ _ he
  | bufToPageBuf0 p => exact admitAddressed_ended _ _ _ _ _ he
  | bufToPageBuf1 p => exact admitAddressed_ended _ _ _ _ _ he
  | blockErase k => simp only [exec, execBlockErase, admitAddressed_ended _ _ _ _ _ he]

theorem exec_endBlock_ends {s : State} (he : s.ended = false) :
    exec .endBlock s = .next (respond .ok (.bytes []) { s with ended := true }) := by
  simp [exec, execEnd, he]

/-! ## The cases of a commit after the check for `Ended` (R160) -/

section
variable {s : State} {d : Nat} {row : Geometry} (he : s.ended = false)
include he

theorem exec_commitGeometry_badOperand (hd : Config.nVariants ≤ d) :
    exec (.commitGeometry d) s = .next (refuse .badOperand s) := by
  simp [exec, execCommitGeometry, he, hd]

theorem exec_commitGeometry_alreadyCommitted (hd : d < Config.nVariants) (hv : s.geom.valid = true) :
    exec (.commitGeometry d) s = .next (refuse .alreadyCommitted s) := by
  simp [exec, execCommitGeometry, he, Nat.not_le.2 hd, hv]

theorem exec_commitGeometry_commits (hd : d < Config.nVariants) (hv : s.geom.valid = false)
    (hrow : s.cfg.geomTable[d]? = some row) :
    exec (.commitGeometry d) s
      = .next (respond .ok (.bytes []) { s with geom := { toGeometry := row, valid := true } }) := by
  simp [exec, execCommitGeometry, he, Nat.not_le.2 hd, hv, hrow]

end

/-! ## The rules -/

/-- Settles O19: the checks in the order `Ended`, `BadOperand`, `AlreadyCommitted`, and past them the row of the table. -/
theorem commitWritesTheTableRow : Obligations.CommitWritesTheTableRow :=
  fun d _ => ⟨fun he => exec_ended he (.commitGeometry d), exec_commitGeometry_badOperand,
    exec_commitGeometry_alreadyCommitted, fun _ => exec_commitGeometry_commits⟩

/-- Settles O20: `END` in a mode other than ENDED, and the check for `Ended` that every command begins with. -/
theorem endRefusesEverythingAfter : Obligations.EndRefusesEverythingAfter :=
  fun _ => ⟨exec_endBlock_ends, exec_ended⟩

end Sys2Proof.Machine
end

section
/-!
PROOFS of the client macros' family: the density index of a status byte (R173).
-/

namespace Sys2Proof.Machine

/-- R173: the two fields of index `e` are the naturals from 3 whose distance to 3, halved and rounded down, is `e`. -/
theorem densityIndex_eq_some_iff {b : Byte} {e : Nat} :
    densityIndex b = some e ↔ 3 ≤ densityField b ∧ (densityField b - 3) / 2 = e := by
  simp [densityIndex]

/-- Settles O18: rounding down is what gives an even field the index of the odd field below it. -/
theorem densityMatchesTwoFields : Obligations.DensityMatchesTwoFields := by
  intro b e
  rw [densityIndex_eq_some_iff]
  omega

end Sys2Proof.Machine
end

section
/-!
PROOFS of the reset family: a step with a sample of the reset and power input, and the two samples that reset the block (R230 to
R232).
-/

namespace Sys2Proof.Machine

/-- With a sample to come, it alone decides the step (log 15). -/
theorem step_eq_onPin {s : State} {p : Pin} {ps : List Pin} (hl : s.cfg.legal = true) (hp : s.pins = p :: ps) :
    step s = onPin p (nextPins s) := by
  simp [step, hl, hp, nextPins]

/-- R231: the release of the bus comes before the registers are reset, and changes neither the parameters nor what is to come. -/
@[simp] theorem resetInput_cfg (s : State) : (resetInput s).cfg = s.cfg := by
  cases hs : s.sel <;> simp [resetInput, hs]

@[simp] theorem resetInput_pins (s : State) : (resetInput s).pins = s.pins := by
  cases hs : s.sel <;> simp [resetInput, hs]

/-- R231: one `UNSEL` exactly when chip-select is asserted. -/
@[simp] theorem resetInput_trace (s : State) :
    (resetInput s).trace = s.trace ++ (if s.sel = true then [.unsel] else []) := by
  cases hs : s.sel <;> simp [resetInput, hs]

@[simp] theorem Stub.powerUp_array (c : Config) (draws : Nat) (k : Stub) : (k.powerUp c draws).array = k.array := rfl

/-- Settles O3: the registers are those of `resetBlock` whatever they held; only the trace depends on `SEL`. -/
theorem resetInputReleasesTheBus : Obligations.ResetInputReleasesTheBus := by
  intro s ps hl hp
  refine ⟨resetInput (nextPins s), step_eq_onPin hl hp, rfl, rfl, rfl, rfl, rfl, rfl, rfl, ?cfg, ?pins, ?trace⟩
  case cfg => exact resetInput_cfg _
  case pins => simp [hp]
  case trace => exact resetInput_trace _

/-- Settles O4: a power cycle is `resetBlock` with no `unselect`, and what it does to the chip leaves the array. -/
theorem powerCycleHasNoBusEvent : Obligations.PowerCycleHasNoBusEvent := by
  intro s ps hl hp
  refine ⟨powerCycle (nextPins s), step_eq_onPin hl hp, rfl, rfl, rfl, rfl, rfl, rfl, rfl, rfl, rfl, ?array⟩
  case array =>
    intro k hk
    exact ⟨k.powerUp s.cfg s.draws, by simp [hk], Stub.powerUp_array ..⟩

end Sys2Proof.Machine
end

section
/-!
PROOFS of the encoding statements: which linear addresses share a wire address (R120), the opcode map read backwards (R87, R88),
the frame of every command read back (R81 to R84), the header word of format A (R82), and the frame that a presented command
loads (R86).
-/

namespace Sys2Proof.Machine

/-! ## The wire address (R120) -/

/-- Offsets inside the offset field read back, and of the page the bits that the page field holds. -/
theorem wireOf_eq_iff {g : Geometry} (hg : g.legal = true) {o r : Nat} (ho : o < 2 ^ g.pageBitWidth)
    (hr : r < 2 ^ g.pageBitWidth) (p q : Nat) :
    wireOf g p o = wireOf g q r ↔ o = r ∧ p % 2 ^ (24 - g.pageBitWidth) = q % 2 ^ (24 - g.pageBitWidth) := by
  constructor
  · intro h
    exact ⟨by rw [← offsetField_wireOf hg ho p, h, offsetField_wireOf hg hr],
      by rw [← pageField_wireOf hg ho p, h, pageField_wireOf hg hr]⟩
  · rintro ⟨rfl, hpage⟩
    rw [wireOf_mod_fields hg p, hpage, ← wireOf_mod_fields hg q]

/-- Settles O15: the offset of an address is inside the offset field. -/
theorem aliasClassesAreExact : Obligations.AliasClassesAreExact :=
  fun _ _ _ hg => wireOf_eq_iff hg (offsetOf_lt_field hg _) (offsetOf_lt_field hg _) _ _

/-- A page that fits its field reads back (R85). -/
theorem pageField_wireOf_of_fits {g : Geometry} (hg : g.legal = true) {p o : Nat} (hp : g.pageFits p = true)
    (ho : o < 2 ^ g.pageBitWidth) : pageField g (wireOf g p o) = p := by
  rw [pageField_wireOf hg ho, Nat.mod_eq_of_lt (of_decide_eq_true hp)]

/-- A buffer offset of at most 24 bits is the wire address itself (R143). -/
theorem wireOfBuffer_toNat (g : Geometry) {o : Nat} (ho : o < 2 ^ 24) : (wireOfBuffer g o).toNat = o := by
  rw [wireOfBuffer, wireOf_toNat, packed, Nat.zero_shiftLeft, Nat.zero_or, Nat.mod_eq_of_lt ho]

/-! ## The opcode map read backwards (R87, R88) -/

section
variable {c : Config} (hc : c.opcodesDistinct = true)
include hc

theorem WireOp.exists_opcode (op : WireOp) : ∃ b, op.opcode c = some b := by
  have hop : op ∈ WireOp.all := by cases op <;> decide
  have h := List.all_eq_true.1 hc op hop
  rw [Bool.and_eq_true] at h
  exact Option.isSome_iff_exists.1 h.1

theorem WireOp.opcode_ne {x y : WireOp} (hxy : x ≠ y) : x.opcode c ≠ y.opcode c := by
  have hx : x ∈ WireOp.all := by cases x <;> decide
  have hy : y ∈ WireOp.all := by cases y <;> decide
  have h := List.all_eq_true.1 hc x hx
  rw [Bool.and_eq_true] at h
  simpa [hxy] using List.all_eq_true.1 h.2 y hy

/-- An opcode "alone selects the chip operation" (R87). -/
theorem WireOp.ofOpcode_opcode {op : WireOp} {b : Byte} (hb : op.opcode c = some b) : WireOp.ofOpcode c b = some op := by
  have hop : op ∈ WireOp.all := by cases op <;> decide
  cases hfind : WireOp.ofOpcode c b with
  | none => simpa [hb] using List.find?_eq_none.1 hfind op hop
  | some x =>
    have hx : x.opcode c = some b := by simpa using List.find?_some hfind
    by_contra hne
    exact WireOp.opcode_ne hc (fun h => hne (congrArg some h)) (hx.trans hb.symm)

/-! ## Frames read back (R81 to R84) -/

/-- Past its opcode and its three address bytes a frame is read by its row. -/
theorem decode_frameBytes (g : Geometry) {op : WireOp} (hop : op ≠ .statusRead) (w : Wire) (ndummy : Nat) (tx : List Byte)
    (nrx : Nat) : decode c g (frameBytes c (op.opcode c) (some w) ndummy tx nrx)
      = decodeAddressed c g op w (List.replicate ndummy c.fillByte ++ tx ++ List.replicate nrx c.fillByte) := by
  obtain ⟨b, hb⟩ := WireOp.exists_opcode hc op
  cases op with
  | statusRead => exact absurd rfl hop
  | _ => simp [decode, frameBytes, hb, WireOp.ofOpcode_opcode hc hb, wireBytes, wireOfBytes_split]

end

section
variable {g : Geometry} (hg : g.legal = true)
include hg

/-- A page that fits its field, with nothing after it, reads back (R82). -/
theorem decodePage_wireOf {p : Nat} (hp : g.pageFits p = true) (f : Nat → Except DecodeError Instr) :
    decodePage g (wireOf g p 0) [] f = f p := by
  have hpos : 0 < 2 ^ g.pageBitWidth := Nat.two_pow_pos _
  rw [decodePage, if_neg (fun h => h rfl), offsetField_wireOf hg hpos, if_neg (fun h => h rfl),
    pageField_wireOf_of_fits hg hp hpos]

/-- An erase names the first page of a block (R146). -/
theorem decodeAddressed_blockErase (c : Config) {i : Nat} (hi : g.pageFits (Config.blockPages * i) = true) :
    decodeAddressed c g .blockErase (wireOfBlock g i) [] = .ok (.blockErase i) := by
  have hblock : Config.blockPages * i % Config.blockPages = 0 := Nat.mul_mod_right ..
  rw [decodeAddressed, wireOfBlock, decodePage_wireOf hg hi, if_pos hblock, Nat.mul_div_cancel_left i (by decide)]

/-- The two fields of the address of a read give the linear address back, and its length is what follows the header (R83). -/
theorem decodeAddressed_readArray (c : Config) {a : Addr} (ha : g.pageFits (pageOf g a.toNat) = true) (n : Nat) :
    decodeAddressed c g .readArray (wireOfLinear g a)
      (List.replicate Config.nDummyRead c.fillByte ++ [] ++ List.replicate n c.fillByte) = .ok (.readArray a n) := by
  have hpage : pageField g (wireOfLinear g a) = pageOf g a.toNat := pageField_wireOf_of_fits hg ha (offsetOf_lt_field hg _)
  have hoffset : offsetField g (wireOfLinear g a) = offsetOf g a.toNat := offsetField_wireOf hg (offsetOf_lt_field hg _) _
  have hsize : ¬ g.pageByteSize ≤ offsetOf g a.toNat := Nat.not_le.2 (offsetOf_lt_size hg _)
  rw [List.append_nil, ← List.replicate_add]
  simp [decodeAddressed, hpage, hoffset, hsize]

end

/-- Settles O29: row by row, the fields of the wire address and what follows the header give the operands back. -/
theorem decodeInvertsEncode : Obligations.DecodeInvertsEncode := by
  intro c g i hc hg hi
  cases i with
  | statusRead => simp [encode, frameBytes, decode, WireOp.ofOpcode_opcode hc (op := .statusRead) rfl, WireOp.opcode]
  | readArray a n =>
    rw [encode, decode_frameBytes hc g (by decide)]
    exact decodeAddressed_readArray hg c hi n
  | bufWriteBuf0 o bytes =>
    rw [encode, decode_frameBytes hc g (by decide)]
    simp [decodeAddressed, wireOfBuffer_toNat g (of_decide_eq_true hi), Function.comp_def]
  | bufWriteBuf1 o bytes =>
    rw [encode, decode_frameBytes hc g (by decide)]
    simp [decodeAddressed, wireOfBuffer_toNat g (of_decide_eq_true hi), Function.comp_def]
  | pageToBufBuf0 p =>
    rw [encode, decode_frameBytes hc g (by decide)]
    exact decodePage_wireOf hg hi fun p => .ok (.pageToBufBuf0 p)
  | pageToBufBuf1 p =>
    rw [encode, decode_frameBytes hc g (by decide)]
    exact decodePage_wireOf hg hi fun p => .ok (.pageToBufBuf1 p)
  | bufToPageBuf0 p =>
    rw [encode, decode_frameBytes hc g (by decide)]
    exact decodePage_wireOf hg hi fun p => .ok (.bufToPageBuf0 p)
  | bufToPageBuf1 p =>
    rw [encode, decode_frameBytes hc g (by decide)]
    exact decodePage_wireOf hg hi fun p => .ok (.bufToPageBuf1 p)
  | blockErase k => rw [encode, decode_frameBytes hc g (by decide)]; exact decodeAddressed_blockErase hg c hi
  | _ => exact absurd hi Bool.false_ne_true

/-! ## The header word of format A (R82) -/

theorem headerWord_toNat (opc : Byte) (w : Wire) : (headerWord opc w).toNat = opc.toNat * 2 ^ 24 + w.toNat := by
  rw [headerWord, BitVec.toNat_append, ← Nat.shiftLeft_add_eq_or_of_lt w.isLt, Nat.shiftLeft_eq]

theorem headerBytes_headerWord (opc : Byte) (w : Wire) : headerBytes (headerWord opc w) = [opc] ++ wireBytes w := by
  rw [headerBytes, headerWord, BitVec.extractLsb'_append_eq_left, BitVec.extractLsb'_append_eq_of_add_le (by decide),
    BitVec.extractLsb'_append_eq_of_add_le (by decide), BitVec.extractLsb'_append_eq_of_add_le (by decide)]
  rfl

/-- A frame of format A is an opcode and a wire address, which is what a header word holds. -/
theorem decodeHeaderWord_of_encode {c : Config} {g : Geometry} {i : Instr} {op : WireOp} {w : Wire}
    (hc : c.opcodesDistinct = true) (hg : g.legal = true) (hi : i.encodable g = true)
    (hencode : encode c g i = frameBytes c (op.opcode c) (some w) 0 [] 0) :
    ∃ opc w, encode c g i = [opc] ++ wireBytes w ∧ decodeHeaderWord c g (headerWord opc w) = .ok i := by
  obtain ⟨b, hb⟩ := WireOp.exists_opcode hc op
  have hbytes : encode c g i = [b] ++ wireBytes w := by rw [hencode, hb]; rfl
  exact ⟨b, w, hbytes, by rw [decodeHeaderWord, headerBytes_headerWord, ← hbytes, decodeInvertsEncode c g i hc hg hi]⟩

/-- Settles O52: the word is the opcode above the wire address, and its bytes are a frame that decodes (O29). -/
theorem headerWordHoldsOpcodeAndAddress : Obligations.HeaderWordHoldsOpcodeAndAddress := by
  refine ⟨fun opc w => ?_, fun c g i p hc hg hi hrow => ?_⟩
  · rw [headerWord_toNat]
    exact ⟨mul_add_div_of_lt w.isLt _, Nat.mul_add_mod_of_lt w.isLt, headerBytes_headerWord opc w⟩
  · obtain rfl | rfl | rfl | rfl | rfl := hrow
    · exact decodeHeaderWord_of_encode hc hg hi rfl
    · exact decodeHeaderWord_of_encode hc hg hi rfl
    · exact decodeHeaderWord_of_encode hc hg hi rfl
    · exact decodeHeaderWord_of_encode hc hg hi rfl
    · exact decodeHeaderWord_of_encode (op := .blockErase) hc hg hi rfl

/-! ## The frame a presented command loads (R86, R91) -/

theorem exec_linearof (p o : Nat) (s : State) :
    exec (.linearof p o) s = answerTranslation (fun g => .nat (linearOf g p o)) s := rfl

theorem answerTranslation_fr {f : Geometry → RespData} {s t : State} (h : answerTranslation f s = .next t) :
    t.fr = s.fr := by
  cases hended : s.ended with
  | true => rw [answerTranslation_ended f hended] at h; cases h; rfl
  | false =>
    cases hvalid : s.geom.valid with
    | false => rw [answerTranslation_uncommitted hended hvalid] at h; cases h; rfl
    | true => rw [answerTranslation_committed f hended hvalid] at h; cases h; rfl

theorem execCommitGeometry_fr {d : Nat} {s t : State} (h : execCommitGeometry d s = .next t) : t.fr = s.fr := by
  unfold execCommitGeometry at h
  split at h
  case isTrue => cases h; rfl
  case isFalse =>
    split at h
    case isTrue => cases h; rfl
    case isFalse =>
      split at h
      case isTrue => cases h; rfl
      case isFalse => split at h <;> cases h; rfl

/-- Admission refuses, or loads the frame of the opcode and operands it was given. -/
theorem admitAddressed_sends {cmd : FrameCmd} {opc : Option Byte} {inRange : Bool} {w : Wire} {ndummy : Nat}
    {tx : List Byte} {nrx : Nat} {s t : State} (h : admitAddressed cmd opc inRange w ndummy tx nrx s = .next t) :
    t.fr = s.fr ∨ bytesToSend s.cfg t.fr = frameBytes s.cfg opc (some w) ndummy tx nrx := by
  unfold admitAddressed at h
  split at h
  case isTrue => cases h; exact .inl rfl
  case isFalse =>
    split at h
    case isTrue => cases h; exact .inl rfl
    case isFalse =>
      split at h
      case h_1 => cases h; exact .inl rfl
      case h_2 =>
        split at h
        case isTrue => cases h; exact .inl rfl
        case isFalse => cases h; exact .inr rfl

/-- A presented command leaves the framer alone or loads its encoding (R86, R88). -/
theorem exec_sends {i : Instr} {s t : State} (h : exec i s = .next t) :
    t.fr = s.fr ∨ bytesToSend s.cfg t.fr = encode s.cfg s.geom.toGeometry i := by
  cases i with
  | statusRead =>
    simp only [exec, execStatusRead] at h
    split at h <;> cases h
    · exact .inl rfl
    · exact .inr rfl
  | split3 w =>
    simp only [exec, execSplit3] at h
    split at h <;> cases h <;> exact .inl rfl
  | endBlock =>
    simp only [exec, execEnd] at h
    split at h <;> cases h <;> exact .inl rfl
  | commitGeometry d => exact .inl (execCommitGeometry_fr h)
  | pageof a => rw [exec_pageof] at h; exact .inl (answerTranslation_fr h)
  | offsetof a => rw [exec_offsetof] at h; exact .inl (answerTranslation_fr h)
  | linearof p o => rw [exec_linearof] at h; exact .inl (answerTranslation_fr h)
  | pack p o => rw [exec_pack] at h; exact .inl (answerTranslation_fr h)
  | xlate a => rw [exec_xlate] at h; exact .inl (answerTranslation_fr h)
  | readArray a n => exact admitAddressed_sends (opc := WireOp.readArray.opcode s.cfg) h
  | bufWriteBuf0 o bytes => exact admitAddressed_sends (opc := WireOp.bufWrite0.opcode s.cfg) h
  | bufWriteBuf1 o bytes => exact admitAddressed_sends (opc := WireOp.bufWrite1.opcode s.cfg) h
  | pageToBufBuf0 p => exact admitAddressed_sends (opc := WireOp.pageToBuf0.opcode s.cfg) h
  | pageToBufBuf1 p => exact admitAddressed_sends (opc := WireOp.pageToBuf1.opcode s.cfg) h
  | bufToPageBuf0 p => exact admitAddressed_sends (opc := WireOp.bufToPage0.opcode s.cfg) h
  | bufToPageBuf1 p => exact admitAddressed_sends (opc := WireOp.bufToPage1.opcode s.cfg) h
  | blockErase k => exact admitAddressed_sends (opc := WireOp.blockErase.opcode s.cfg) h

/-- R91, for every command. -/
theorem encode_length (c : Config) (g : Geometry) (i : Instr) : encode c g i = [] ∨ (encode c g i).length = i.frameLength := by
  cases i with
  | statusRead => exact Laws.FrameLength.statusRead c g
  | readArray a n => exact Laws.FrameLength.readArray a n c g
  | bufWriteBuf0 o bytes => exact Laws.FrameLength.bufWriteBuf0 o bytes c g
  | bufWriteBuf1 o bytes => exact Laws.FrameLength.bufWriteBuf1 o bytes c g
  | pageToBufBuf0 p => exact Laws.FrameLength.pageToBufBuf0 p c g
  | pageToBufBuf1 p => exact Laws.FrameLength.pageToBufBuf1 p c g
  | bufToPageBuf0 p => exact Laws.FrameLength.bufToPageBuf0 p c g
  | bufToPageBuf1 p => exact Laws.FrameLength.bufToPageBuf1 p c g
  | blockErase k => exact Laws.FrameLength.blockErase k c g
  | _ => exact .inl rfl

theorem bytesToSend_ne_nil (c : Config) (f : Framer) : bytesToSend c f ≠ [] := by
  simp [bytesToSend, header]

/-- Settles O27: a frame in flight was loaded by this command, and one with no bytes would lack its opcode. -/
theorem theFrameSentIsTheEncoding : Obligations.TheFrameSentIsTheEncoding := by
  intro i s t hidle h hinflight
  have hsent : bytesToSend s.cfg t.fr = encode s.cfg s.geom.toGeometry i :=
    (exec_sends h).resolve_left fun hfr => hinflight (hfr ▸ hidle)
  have hcfg : t.cfg = s.cfg := by cases exec_presented h <;> rfl
  rw [hcfg]
  exact ⟨hsent, (encode_length ..).resolve_left (hsent ▸ bytesToSend_ne_nil _ _)⟩

end Sys2Proof.Machine
end

section
/-!
PROOFS about one step: the rows of R135 said once, what a step leaves alone, what it does on the bus (R27, R133), and the
invariants that every step keeps.
-/

namespace Sys2Proof.Machine

/-! ## The rows of the wait (R135) -/

/-- The row of R135 that the wait walks. -/
inductive PollMove (s : State) : State → Prop
  /-- The budget is spent (R131, R203). -/
  | spent (hpos : s.fr.pos = 0) (hb : s.cfg.pollBudget = some s.polls) : PollMove s (raise .busTimeout s)
  | selects (hpos : s.fr.pos = 0) (hb : s.cfg.pollBudget ≠ some s.polls) : PollMove s (nextPos (select s))
  | asks (hpos : s.fr.pos = 1) : PollMove s (nextPos (transfer s.cfg.opcStatusRead s))
  | samples (hpos : s.fr.pos = 2) :
      PollMove s (nextPos { transfer s.cfg.fillByte s with fr := { s.fr with sample := chipReply s } })
  | tests (hpos : 3 ≤ s.fr.pos) : PollMove s { unselect s with
      polls := s.polls + 1
      fr := { s.fr with phase := phaseAfter s.cfg s.fr.sample, pos := 0 } }

theorem pollStep_move (s : State) : PollMove s (pollStep s) := by
  obtain h | h | h | h : s.fr.pos = 0 ∨ s.fr.pos = 1 ∨ s.fr.pos = 2 ∨ 3 ≤ s.fr.pos := by omega
  · rw [pollStep_zero h]
    split
    case isTrue hb => exact .spent h hb
    case isFalse hb => exact .selects h hb
  · rw [pollStep_one h]; exact .asks h
  · rw [pollStep_two h]; exact .samples h
  · rw [pollStep_last h]; exact .tests h

/-! ## What a step leaves alone -/

/-- What the framer's rows leave alone (R134). -/
structure FramerKeeps (s t : State) : Prop where
  cfg : t.cfg = s.cfg
  pins : t.pins = s.pins
  client : t.client = s.client
  ended : t.ended = s.ended
  geom : t.geom = s.geom

theorem PollMove.keeps {s t : State} (h : PollMove s t) : FramerKeeps s t := by
  cases h <;> exact ⟨rfl, rfl, rfl, rfl, rfl⟩

theorem bodyStep_keeps (s : State) : FramerKeeps s (bodyStep s) := by
  obtain ⟨-, h⟩ | ⟨b, ts, n, rx, -, h⟩ | ⟨-, -, -, -, h⟩ := bodyStep_cases s
  all_goals rw [h]; exact ⟨rfl, rfl, rfl, rfl, rfl⟩


theorem Presented.cfg_pins {s t : State} (h : Presented s t) : t.cfg = s.cfg ∧ t.pins = s.pins := by
  cases h <;> exact ⟨rfl, rfl⟩

theorem ClientDoes.cfg_pins {s t : State} (h : ClientDoes s t) : t.cfg = s.cfg ∧ t.pins = s.pins := by
  obtain ⟨c, rfl | hp⟩ := h
  · exact ⟨rfl, rfl⟩
  · exact hp.cfg_pins

/-- The parameters stay (R38), and one sample of the reset and power input is taken (log 15). -/
theorem step_cfg_pins {s t : State} (h : step s = .next t) : t.cfg = s.cfg ∧ t.pins = s.pins.tail := by
  obtain ⟨-, ⟨-, rfl⟩ | ⟨-, rfl⟩ | ⟨-, -, rfl⟩ | ⟨-, -, rfl⟩ | ⟨-, -, hc⟩⟩ := step_cases h
  · exact ⟨resetInput_cfg _, resetInput_pins _⟩
  · exact ⟨rfl, rfl⟩
  · exact ⟨(pollStep_move _).keeps.cfg, (pollStep_move _).keeps.pins⟩
  · exact ⟨(bodyStep_keeps _).cfg, (bodyStep_keeps _).pins⟩
  · exact hc.cfg_pins

/-- A step with no reset and a command in flight is the framer's. -/
theorem step_framerKeeps {s t : State} (h : step s = .next t) (hn : NoReset s) (hinflight : s.fr.phase ≠ .idle) :
    FramerKeeps (nextPins s) t := by
  obtain ⟨-, ⟨hp, -⟩ | ⟨hp, -⟩ | ⟨-, -, rfl⟩ | ⟨-, -, rfl⟩ | ⟨-, hidle, -⟩⟩ := step_cases h
  · exact absurd hp hn.1
  · exact absurd hp hn.2
  · exact (pollStep_move _).keeps
  · exact bodyStep_keeps _
  · exact absurd hidle hinflight

/-- Settles O33: such a step is a row of the framer. -/
theorem clientWaitsWhileACommandIsInFlight : Obligations.ClientWaitsWhileACommandIsInFlight := by
  intro s t h hn hinflight
  have hkeeps := step_framerKeeps h hn hinflight
  exact ⟨hkeeps.client, hkeeps.geom, hkeeps.ended⟩

/-! ## Mode ENDED (R161) -/

/-- In mode ENDED a command is answered and nothing more: none of the other moves is open. -/
theorem Presented.of_ended {s t : State} (h : Presented s t) (he : s.ended = true) : ∃ r d, t = respond r d s := by
  cases h with
  | answered r d => exact ⟨r, d, rfl⟩
  | status h => simp [he] at h
  | addressed cmd opc wire ndummy tx nrx h => simp [he] at h
  | committed row h => simp [he] at h
  | ended h => simp [he] at h

/-- Settles O35: the framer is idle, so the step is the client's, whose command is answered at once. -/
theorem endedBlockIsSilent : Obligations.EndedBlockIsSilent := by
  intro s t hs he hn h
  have hidle := hs.endedIdle he
  obtain ⟨-, ⟨hp, -⟩ | ⟨hp, -⟩ | ⟨-, hp, -⟩ | ⟨-, hp, -⟩ | ⟨-, -, c, rfl | hc⟩⟩ := step_cases h
  · exact absurd hp hn.1
  · exact absurd hp hn.2
  · simp [hidle] at hp
  · simp [hidle] at hp
  · exact ⟨rfl, rfl, he, rfl, rfl⟩
  · obtain ⟨r, d, rfl⟩ := hc.of_ended he
    exact ⟨rfl, rfl, he, rfl, rfl⟩

/-! ## The bus (R13, R27, R133) -/

theorem inFrame_idle {s : State} (h : s.fr.phase = .idle) : s.inFrame = false := by simp [State.inFrame, h]

theorem inFrame_inflight {s : State} (h : s.fr.phase ≠ .idle) : s.inFrame = decide (s.fr.pos ≠ 0) := by
  cases hp : s.fr.phase with
  | idle => exact absurd hp h
  | poll => simp [State.inFrame, hp]
  | body => simp [State.inFrame, hp]

/-- What a step with no reset does on the bus: nothing, or one event in its place. -/
inductive BusMove (s t : State) : Prop
  | silent (ht : t.trace = s.trace) (hsel : t.sel = s.sel) (hf : t.inFrame = s.inFrame)
  | selects (hf : s.inFrame = false) (ht : t.trace = s.trace ++ [.sel]) (hsel : t.sel = true) (hf' : t.inFrame = true)
  | exchanges (tx rx : Byte) (hf : s.inFrame = true) (ht : t.trace = s.trace ++ [.xfer tx rx]) (hsel : t.sel = s.sel)
      (hf' : t.inFrame = true)
  | releases (hf : s.inFrame = true) (ht : t.trace = s.trace ++ [.unsel]) (hsel : t.sel = false) (hf' : t.inFrame = false)

theorem PollMove.busMove {s t : State} (hp : s.fr.phase = .poll) (h : PollMove s t) : BusMove s t := by
  cases h with
  | spent hpos hb => exact .silent rfl rfl (by simp [State.inFrame, hp, hpos])
  | selects hpos hb => exact .selects (by simp [State.inFrame, hp, hpos]) rfl rfl (by simp [State.inFrame, hp])
  | asks hpos => exact .exchanges _ _ (by simp [State.inFrame, hp, hpos]) rfl rfl (by simp [State.inFrame, hp])
  | samples hpos => exact .exchanges _ _ (by simp [State.inFrame, hp, hpos]) rfl rfl (by simp [State.inFrame, hp])
  | tests hpos =>
    refine .releases ?_ rfl rfl ?_
    · simp [State.inFrame, hp]; omega
    · simp [inFrame_inflight]

theorem bodyStep_busMove {s : State} (hp : s.fr.phase = .body) : BusMove s (bodyStep s) := by
  obtain ⟨hpos, h⟩ | ⟨b, ts, n, rx, hpos, h⟩ | ⟨hpos, -, -, -, h⟩ := bodyStep_cases s <;> rw [h]
  · exact .selects (by simp [State.inFrame, hp, hpos]) rfl rfl (by simp [State.inFrame, hp])
  · exact .exchanges b (chipReply s) (by simp [State.inFrame, hp]; omega) rfl rfl (by simp [State.inFrame, hp])
  · exact .releases (by simp [State.inFrame, hp]; omega) rfl rfl (by simp [State.inFrame])

theorem Presented.busMove {s t : State} (hp : s.fr.phase = .idle) (h : Presented s t) : BusMove s t := by
  cases h with
  | answered r d => exact .silent rfl rfl rfl
  | status he => exact .silent rfl rfl (by rw [inFrame_idle hp]; rfl)
  | addressed cmd opc wire ndummy tx nrx he hv hc => exact .silent rfl rfl (by rw [inFrame_idle hp]; rfl)
  | committed row he hv hr => exact .silent rfl rfl rfl
  | ended he => exact .silent rfl rfl rfl

/-- The client and the reset input are not on the bus. -/
theorem BusMove.congr_left {s s' t : State} (ht : s'.trace = s.trace) (hsel : s'.sel = s.sel) (hf : s'.inFrame = s.inFrame)
    (h : BusMove s' t) : BusMove s t := by
  cases h with
  | silent h1 h2 h3 => exact .silent (h1.trans ht) (h2.trans hsel) (h3.trans hf)
  | selects h1 h2 h3 h4 => exact .selects (hf ▸ h1) (ht ▸ h2) h3 h4
  | exchanges tx rx h1 h2 h3 h4 => exact .exchanges tx rx (hf ▸ h1) (ht ▸ h2) (h3.trans hsel) h4
  | releases h1 h2 h3 h4 => exact .releases (hf ▸ h1) (ht ▸ h2) h3 h4

/-- What a step does on the bus. -/
theorem step_onBus {s t : State} (h : step s = .next t) : BusMove s t
    ∨ (s.pins.head? = some .reset ∧ t = resetInput (nextPins s))
    ∨ (s.pins.head? = some .powerCycle ∧ t = powerCycle (nextPins s)) := by
  have hpins : ∀ {u}, BusMove (nextPins s) u → BusMove s u := .congr_left rfl rfl rfl
  obtain ⟨-, hr | hr | ⟨-, hp, rfl⟩ | ⟨-, hp, rfl⟩ | ⟨-, hp, c, rfl | hc⟩⟩ := step_cases h
  · exact .inr (.inl hr)
  · exact .inr (.inr hr)
  · exact .inl (hpins ((pollStep_move _).busMove hp))
  · exact .inl (hpins (bodyStep_busMove hp))
  · exact .inl (.silent rfl rfl rfl)
  · exact .inl (hpins (BusMove.congr_left (s' := withClient c (nextPins s)) rfl rfl rfl (hc.busMove hp)))

theorem BusMove.trace {s t : State} (h : BusMove s t) : ∃ es : List BusEvent, es.length ≤ 1 ∧ t.trace = s.trace ++ es := by
  cases h with
  | silent ht => exact ⟨[], Nat.zero_le _, by rw [ht, List.append_nil]⟩
  | selects hf ht => exact ⟨_, le_rfl, ht⟩
  | exchanges tx rx hf ht => exact ⟨_, le_rfl, ht⟩
  | releases hf ht => exact ⟨_, le_rfl, ht⟩

/-- Settles O32: a step makes one move on the bus, or resets the block, which at most releases it (R231) and at a power cycle
has no event (R232). -/
theorem traceGrowsByAtMostOneEvent : Obligations.TraceGrowsByAtMostOneEvent := by
  intro s t h
  refine ⟨?_, step_cfg_pins h⟩
  obtain hmove | ⟨-, rfl⟩ | ⟨-, rfl⟩ := step_onBus h
  · exact hmove.trace
  · exact ⟨_, by split <;> simp, resetInput_trace _⟩
  · exact ⟨[], Nat.zero_le _, (List.append_nil _).symm⟩

/-- One more event is read from where the trace before it ends. -/
theorem scanTrace_concat (inside : Bool) (es : List BusEvent) (e : BusEvent) :
    scanTrace inside (es ++ [e]) = (scanTrace inside es).bind fun b => scanTrace b [e] := by
  induction es generalizing inside with
  | nil => rfl
  | cons x es ih => cases inside <;> cases x <;> simp [scanTrace, ih]

theorem BusMove.sel_eq {s t : State} (h : BusMove s t) (hs : s.sel = s.inFrame) : t.sel = t.inFrame := by
  cases h with
  | silent ht hsel hf => rw [hsel, hf, hs]
  | selects hf ht hsel hf' => rw [hsel, hf']
  | exchanges tx rx hf ht hsel hf' => rw [hsel, hs, hf, hf']
  | releases hf ht hsel hf' => rw [hsel, hf']

theorem BusMove.busDiscipline {s t : State} (h : BusMove s t) (hs : BusDiscipline s) : BusDiscipline t := by
  obtain ⟨hsel, hscan⟩ := hs
  refine ⟨h.sel_eq hsel, ?_⟩
  cases h with
  | silent ht hsel' hf => rw [ht, hsel', hscan]
  | selects hf ht hsel' hf' => rw [ht, scanTrace_concat, hscan, hsel, hf, hsel']; rfl
  | exchanges tx rx hf ht hsel' hf' => rw [ht, scanTrace_concat, hscan, hsel', hsel, hf]; rfl
  | releases hf ht hsel' hf' => rw [ht, scanTrace_concat, hscan, hsel, hf, hsel']; rfl

/-- R231: a bus that the reset finds open is closed by its one `UNSEL`. -/
theorem resetInput_busDiscipline {s : State} (h : BusDiscipline s) : BusDiscipline (resetInput s) := by
  refine ⟨rfl, ?_⟩
  rw [resetInput_trace]
  cases hsel : s.sel with
  | false => simpa [hsel, resetInput] using h.2
  | true =>
    rw [if_pos rfl, scanTrace_concat, h.2, hsel]
    rfl

/-- Settles O36: a move on the bus keeps both parts, and after a reset chip-select is released and no frame is open. -/
theorem stepKeepsBusDiscipline : Obligations.StepKeepsBusDiscipline := by
  intro s t h
  obtain hmove | ⟨-, rfl⟩ | ⟨hp, rfl⟩ := step_onBus h
  · exact ⟨hmove.sel_eq, fun _ => hmove.busDiscipline⟩
  · exact ⟨fun _ => rfl, fun _ hs => resetInput_busDiscipline (s := nextPins s) hs⟩
  · exact ⟨fun _ => rfl, fun hn => absurd hp hn⟩

/-! ## What the registers keep among themselves (R26, R30, R31, R160) -/

/-- With no command in flight only the committed row and the budget are left to say. -/
theorem coherent_of_idle {s : State} (hrow : s.geom.valid = true → s.geom.toGeometry ∈ s.cfg.geomTable)
    (hidle : s.fr.phase = .idle) (hpolls : ∀ b, s.cfg.pollBudget = some b → s.polls ≤ b) : Coherent s where
  committedRow := hrow
  endedIdle _ := hidle
  uncommittedStatus _ h := absurd hidle h
  pollPosition h := by simp [hidle] at h
  noResponseInFlight h := absurd hidle h
  pollsWithinBudget b hb := ⟨hpolls b hb, fun h => by simp [hidle] at h⟩

theorem coherent_of_reset {s : State} (hgeom : s.geom = GeomReg.reset) (hfr : s.fr = Framer.reset) (hpolls : s.polls = 0) :
    Coherent s :=
  coherent_of_idle (by simp [hgeom, GeomReg.reset]) (by simp [hfr, Framer.reset]) (by simp [hpolls])

theorem Coherent.polls_le {s : State} (h : Coherent s) (b : Nat) (hb : s.cfg.pollBudget = some b) : s.polls ≤ b :=
  (h.pollsWithinBudget b hb).1

theorem Coherent.pollMove {s t : State} (h : Coherent s) (hp : s.fr.phase = .poll) (hmove : PollMove s t) : Coherent t := by
  obtain ⟨hcmd, -⟩ := h.pollPosition hp
  have hinflight : s.fr.phase ≠ .idle := by simp [hp]
  cases hmove with
  | spent hpos hb => exact coherent_of_idle h.committedRow rfl h.polls_le
  | selects hpos hb =>
    have hleft : ∀ b, s.cfg.pollBudget = some b → s.polls < b := fun b hb' =>
      lt_of_le_of_ne (h.polls_le b hb') fun heq => hb (heq ▸ hb')
    exact { h with
      pollPosition := fun _ => ⟨hcmd, by simp [hpos]⟩
      pollsWithinBudget := fun b hb' => ⟨h.polls_le b hb', fun _ _ => hleft b hb'⟩ }
  | asks hpos =>
    exact { h with
      pollPosition := fun _ => ⟨hcmd, by simp [hpos]⟩
      pollsWithinBudget := fun b hb => ⟨h.polls_le b hb, fun _ _ => (h.pollsWithinBudget b hb).2 hp (by omega)⟩ }
  | samples hpos =>
    exact { h with
      pollPosition := fun _ => ⟨hcmd, by simp [hpos]⟩
      pollsWithinBudget := fun b hb => ⟨h.polls_le b hb, fun _ _ => (h.pollsWithinBudget b hb).2 hp (by omega)⟩ }
  | tests hpos =>
    exact {
      committedRow := h.committedRow
      endedIdle := fun he => absurd (h.endedIdle he) hinflight
      uncommittedStatus := fun hv _ => h.uncommittedStatus hv hinflight
      pollPosition := fun _ => ⟨hcmd, Nat.zero_le _⟩
      noResponseInFlight := fun _ => h.noResponseInFlight hinflight
      pollsWithinBudget := fun b hb => ⟨(h.pollsWithinBudget b hb).2 hp (by omega), fun _ h0 => absurd rfl h0⟩ }

theorem Coherent.bodyStep {s : State} (h : Coherent s) (hp : s.fr.phase = .body) : Coherent (bodyStep s) := by
  have hnotPoll : s.fr.phase ≠ .poll := by simp [hp]
  obtain ⟨-, hstep⟩ | ⟨b, ts, n, rx, -, hstep⟩ | ⟨-, -, -, -, hstep⟩ := bodyStep_cases s <;> rw [hstep]
  · exact { h with
      pollPosition := fun hpoll => absurd hpoll hnotPoll
      pollsWithinBudget := fun b hb => ⟨h.polls_le b hb, fun hpoll => absurd hpoll hnotPoll⟩ }
  · exact { h with
      pollPosition := fun hpoll => absurd hpoll hnotPoll
      pollsWithinBudget := fun b hb => ⟨h.polls_le b hb, fun hpoll => absurd hpoll hnotPoll⟩ }
  · exact coherent_of_idle h.committedRow rfl h.polls_le

theorem Coherent.presented {s t : State} (h : Coherent s) (hidle : s.fr.phase = .idle) (hpres : Presented s t) :
    Coherent t := by
  cases hpres with
  | answered r d => exact coherent_of_idle h.committedRow hidle h.polls_le
  | status he =>
    exact {
      committedRow := h.committedRow
      endedIdle := fun he' => by simp [he] at he'
      uncommittedStatus := fun _ _ => rfl
      pollPosition := nofun
      noResponseInFlight := fun _ => rfl
      pollsWithinBudget := fun b _ => ⟨Nat.zero_le b, nofun⟩ }
  | addressed cmd opc wire ndummy tx nrx he hv hc =>
    exact {
      committedRow := h.committedRow
      endedIdle := fun he' => by simp [he] at he'
      uncommittedStatus := fun hv' => by simp [hv] at hv'
      pollPosition := fun _ => ⟨hc, Nat.zero_le _⟩
      noResponseInFlight := fun _ => rfl
      pollsWithinBudget := fun b _ => ⟨Nat.zero_le b, fun _ h0 => absurd rfl h0⟩ }
  | committed row he hv hr => exact coherent_of_idle (fun _ => hr) hidle h.polls_le
  | ended he => exact coherent_of_idle h.committedRow hidle h.polls_le

/-- Settles O37. -/
theorem stepKeepsCoherence : Obligations.StepKeepsCoherence := by
  intro s t hs h
  have hs' : Coherent (nextPins s) := { hs with }
  obtain ⟨-, ⟨-, rfl⟩ | ⟨-, rfl⟩ | ⟨-, hp, rfl⟩ | ⟨-, hp, rfl⟩ | ⟨-, hp, c, rfl | hc⟩⟩ := step_cases h
  · exact coherent_of_reset rfl rfl rfl
  · exact coherent_of_reset rfl rfl rfl
  · exact hs'.pollMove hp (pollStep_move _)
  · exact hs'.bodyStep hp
  · exact { hs with }
  · exact Coherent.presented (s := withClient c (nextPins s)) { hs with } hp hc

/-! ## A body frame begins only after a ready status frame (R68, R131) -/

/-- Nothing is asked of a state in which no status frame is open and no body frame is about to begin. -/
theorem readyBeforeBody_of_outside {s : State} (hpoll : s.fr.phase = .poll → s.fr.pos = 0)
    (hbody : s.fr.phase = .body → s.fr.pos = 0 → s.fr.cmd = .statusRead) : ReadyBeforeBody s := by
  refine ⟨fun hp => ?_, fun hp h0 hc => absurd (hbody hp h0) hc⟩
  have h0 := hpoll hp
  exact ⟨fun h => by omega, fun h => by omega, fun h => by omega⟩

theorem readyBeforeBody_of_idle {s : State} (h : s.fr.phase = .idle) : ReadyBeforeBody s :=
  readyBeforeBody_of_outside (by simp [h]) (by simp [h])

theorem ReadyBeforeBody.pollMove {s t : State} (h : ReadyBeforeBody s) (hp : s.fr.phase = .poll) (hmove : PollMove s t) :
    ReadyBeforeBody t := by
  obtain ⟨hselected, hasked, hsampled⟩ := h.1 hp
  cases hmove with
  | spent hpos hb => exact readyBeforeBody_of_idle rfl
  | selects hpos hb =>
    refine ⟨fun _ => ⟨fun _ => ⟨s.trace, rfl⟩, ?_, ?_⟩, ?_⟩ <;> simp [hpos, hp]
  | asks hpos =>
    obtain ⟨before, htrace⟩ := hselected hpos
    refine ⟨fun _ => ⟨?_, fun _ => ⟨before, chipReply s, ?_⟩, ?_⟩, ?_⟩ <;> simp [hpos, hp, htrace]
  | samples hpos =>
    obtain ⟨before, ignored, htrace⟩ := hasked hpos
    refine ⟨fun _ => ⟨?_, ?_, fun _ => ⟨before, ignored, ?_⟩⟩, ?_⟩ <;> simp [hpos, hp, htrace]
  | tests hpos =>
    obtain ⟨before, ignored, htrace⟩ := hsampled hpos
    refine ⟨fun _ => ⟨nofun, nofun, nofun⟩, fun hready _ _ => ⟨before, ignored, s.fr.sample, ?_, ?_⟩⟩
    · simp [htrace]
    · exact (phaseAfter_body ..).1 hready

theorem bodyStep_readyBeforeBody {s : State} (hp : s.fr.phase = .body) : ReadyBeforeBody (bodyStep s) := by
  obtain ⟨-, hstep⟩ | ⟨b, ts, n, rx, -, hstep⟩ | ⟨-, -, -, -, hstep⟩ := bodyStep_cases s <;> rw [hstep]
  · exact readyBeforeBody_of_outside (by simp [hp]) (by simp)
  · exact readyBeforeBody_of_outside (by simp [hp]) (by simp)
  · exact readyBeforeBody_of_idle rfl

theorem Presented.readyBeforeBody {s t : State} (h : Presented s t) (hidle : s.fr.phase = .idle) : ReadyBeforeBody t := by
  cases h with
  | answered r d => exact readyBeforeBody_of_idle hidle
  | status he => exact readyBeforeBody_of_outside nofun fun _ _ => rfl
  | addressed cmd opc wire ndummy tx nrx he hv hc => exact readyBeforeBody_of_outside (fun _ => rfl) nofun
  | committed row he hv hr => exact readyBeforeBody_of_idle hidle
  | ended he => exact readyBeforeBody_of_idle hidle

/-- Settles O38: each row of the wait adds its event to the part of the status frame sent so far, and the row that tests the
latch sends the rest of it. -/
theorem stepKeepsReadyBeforeBody : Obligations.StepKeepsReadyBeforeBody := by
  intro s t hs h
  obtain ⟨-, ⟨-, rfl⟩ | ⟨-, rfl⟩ | ⟨-, hp, rfl⟩ | ⟨-, hp, rfl⟩ | ⟨-, hp, c, rfl | hc⟩⟩ := step_cases h
  · exact readyBeforeBody_of_idle rfl
  · exact readyBeforeBody_of_idle rfl
  · exact ReadyBeforeBody.pollMove (s := nextPins s) hs hp (pollStep_move _)
  · exact bodyStep_readyBeforeBody hp
  · exact readyBeforeBody_of_idle hp
  · exact hc.readyBeforeBody hp

/-! ## The stub's memory (log 22) -/

/-- The stub is left alone, or an operation that keeps the canonical form is applied to it. -/
theorem StubCanonical.map {s t : State} {f : Stub → Stub} (h : StubCanonical s) (ht : t.stub = s.stub.map f)
    (hf : ∀ k : Stub, k.Canonical → (f k).Canonical) : StubCanonical t := by
  intro k' hk'
  rw [ht, Option.map_eq_some_iff] at hk'
  obtain ⟨k, hk, rfl⟩ := hk'
  exact hf k (h k hk)

theorem StubCanonical.congr {s t : State} (h : StubCanonical s) (ht : t.stub = s.stub) : StubCanonical t :=
  fun k hk => h k (ht ▸ hk)

section
variable {s : State} (h : StubCanonical s)
include h

theorem StubCanonical.select : StubCanonical (select s) := h.map rfl fun _ => Stub.select_canonical

theorem StubCanonical.transfer (tx : Byte) : StubCanonical (transfer tx s) :=
  h.map rfl fun _ hk => Stub.receive_canonical hk ..

theorem StubCanonical.unselect : StubCanonical (unselect s) := h.map rfl fun _ hk => Stub.unselect_canonical hk _

theorem StubCanonical.pollMove {t : State} (hmove : PollMove s t) : StubCanonical t := by
  cases hmove with
  | spent hpos hb => exact h.congr rfl
  | selects hpos hb => exact h.select.congr rfl
  | asks hpos => exact (h.transfer _).congr rfl
  | samples hpos => exact (h.transfer _).congr rfl
  | tests hpos => exact h.unselect.congr rfl

theorem StubCanonical.bodyStep : StubCanonical (bodyStep s) := by
  obtain ⟨-, hstep⟩ | ⟨b, ts, n, rx, -, hstep⟩ | ⟨-, -, -, -, hstep⟩ := bodyStep_cases s <;> rw [hstep]
  · exact h.select.congr rfl
  · exact (h.transfer b).congr rfl
  · exact h.unselect.congr rfl

theorem StubCanonical.presented {t : State} (hpres : Presented s t) : StubCanonical t := by
  cases hpres <;> exact h.congr rfl

theorem StubCanonical.resetInput : StubCanonical (resetInput s) := by
  unfold Machine.resetInput
  split
  · exact h.unselect.congr rfl
  · exact h.congr rfl

theorem StubCanonical.powerCycle : StubCanonical (powerCycle s) := h.map rfl fun _ hk => Stub.powerUp_canonical hk ..

end

/-- Settles O39: each bus primitive and the power cycle keep the form, and nothing else writes the stub. -/
theorem stepKeepsStubMemoryCanonical : Obligations.StepKeepsStubMemoryCanonical := by
  intro s t hs h
  have hs' : StubCanonical (nextPins s) := hs.congr rfl
  obtain ⟨-, ⟨-, rfl⟩ | ⟨-, rfl⟩ | ⟨-, -, rfl⟩ | ⟨-, -, rfl⟩ | ⟨-, -, c, rfl | hc⟩⟩ := step_cases h
  · exact hs'.resetInput
  · exact hs'.powerCycle
  · exact hs'.pollMove (pollStep_move _)
  · exact hs'.bodyStep
  · exact hs'.congr rfl
  · exact StubCanonical.presented (s := withClient c (nextPins s)) (hs'.congr rfl) hc

/-! ## No step stops (R205) -/

/-- With legal parameters a commit finds its row, so it answers in every case (R160). -/
theorem exec_commitGeometry_total {s : State} (hl : s.cfg.legal = true) (d : Nat) :
    ∃ t, exec (.commitGeometry d) s = .next t := by
  cases he : s.ended with
  | true => exact ⟨_, exec_ended he _⟩
  | false =>
    obtain hd | hd := Nat.lt_or_ge d Config.nVariants
    · cases hv : s.geom.valid with
      | true => exact ⟨_, exec_commitGeometry_alreadyCommitted he hd hv⟩
      | false =>
        have hd' : d < s.cfg.geomTable.length := by rwa [Config.table_length hl]
        exact ⟨_, exec_commitGeometry_commits he hd hv (List.getElem?_eq_getElem hd')⟩
    · exact ⟨_, exec_commitGeometry_badOperand he hd⟩

theorem exec_total {s : State} (hl : s.cfg.legal = true) (i : Instr) : ∃ t, exec i s = .next t := by
  cases i with
  | statusRead => simp only [exec, execStatusRead]; split <;> exact ⟨_, rfl⟩
  | split3 w => simp only [exec, execSplit3]; split <;> exact ⟨_, rfl⟩
  | endBlock => simp only [exec, execEnd]; split <;> exact ⟨_, rfl⟩
  | commitGeometry d => exact exec_commitGeometry_total hl d
  | pageof a => rw [exec_pageof]; exact answerTranslation_total ..
  | offsetof a => rw [exec_offsetof]; exact answerTranslation_total ..
  | linearof p o => rw [exec_linearof]; exact answerTranslation_total ..
  | pack p o => rw [exec_pack]; exact answerTranslation_total ..
  | xlate a => rw [exec_xlate]; exact answerTranslation_total ..
  | readArray a n => simp only [exec, execReadArray]; exact admitAddressed_total ..
  | blockErase k => simp only [exec, execBlockErase]; exact admitAddressed_total ..
  | bufWriteBuf0 o bytes => exact admitAddressed_total ..
  | bufWriteBuf1 o bytes => exact admitAddressed_total ..
  | pageToBufBuf0 p => exact admitAddressed_total ..
  | pageToBufBuf1 p => exact admitAddressed_total ..
  | bufToPageBuf0 p => exact admitAddressed_total ..
  | bufToPageBuf1 p => exact admitAddressed_total ..

theorem present_total {s : State} (hl : s.cfg.legal = true) (r : Request) : ∃ t, present r s = .next t := by
  cases r with
  | row i => exact exec_total hl i
  | bufWrite buf o bytes => rw [present_bufWrite]; exact admitAddressed_total ..
  | pageToBuf buf p => rw [present_pageToBuf]; exact admitAddressed_total ..
  | bufToPage buf p => rw [present_bufToPage]; exact admitAddressed_total ..

theorem clientOp_total {s : State} (hl : s.cfg.legal = true) (op : ClientOp) (rest : List ClientOp) :
    ∃ t, clientOp op rest s = .next t := by
  cases op with
  | call r => exact present_total (by simpa using hl) r
  | detect left e =>
    cases left with
    | zero => exact ⟨_, rfl⟩
    | succ k => exact present_total (by simpa using hl) (.row .statusRead)
  | detectPoll left polls e =>
    simp only [clientOp, detectInner]
    split
    · split
      · exact present_total (by simpa using hl) (.row (.commitGeometry e))
      · exact ⟨_, rfl⟩
    · split
      · exact ⟨_, rfl⟩
      · exact present_total (by simpa using hl) (.row .statusRead)
  | _ => exact ⟨_, rfl⟩

theorem clientMove_total {s : State} (hl : s.cfg.legal = true) : ∃ t, clientMove s = .next t := by
  unfold clientMove
  split
  · exact clientOp_total hl ..
  · split
    · exact present_total (by simpa using hl) _
    · exact ⟨_, rfl⟩
    · exact ⟨_, rfl⟩

theorem advance_total {s : State} (hl : s.cfg.legal = true) : ∃ t, advance s = .next t := by
  unfold advance
  split
  · exact ⟨_, rfl⟩
  · exact ⟨_, rfl⟩
  · exact clientMove_total hl

theorem step_total {s : State} (hl : s.cfg.legal = true) : ∃ t, step s = .next t := by
  cases hp : s.pins with
  | nil => simpa [step, hl, hp] using advance_total hl
  | cons p ps =>
    rw [step_eq_onPin hl hp]
    cases p with
    | run => exact advance_total (s := nextPins s) hl
    | reset => exact ⟨_, rfl⟩
    | powerCycle => exact ⟨_, rfl⟩

theorem step_illegal {s : State} (hl : s.cfg.legal = false) : step s = .refused .illegalParameters := by
  simp [step, hl]

/-- Settles O31: the one refusal of a command, a commit without its row, does not come up with a legal table. -/
theorem everyStepAnswers : Obligations.EveryStepAnswers := fun _ => ⟨step_total, step_illegal⟩

end Sys2Proof.Machine
end

section
/-!
PROOFS about runs: a status read from its admission to its end (R140), the micro-steps against the pseudocode of R131 and R132,
and how long a command can stay in flight (R240).
-/

namespace Sys2Proof.Machine

/-! ## A status read (R140) -/

/-- A status read on the bus: its four micro-steps. -/
theorem runSteps_statusRead {s : State} (h : Undisturbed s) :
    ∃ u, runSteps 4 (admitted (frame .body .statusRead s.cfg.opcStatusRead none 0 [] 1) s) = .next u
      ∧ BusRun s u 2 (frameTrace [s.cfg.opcStatusRead, s.cfg.fillByte] (freeAnswer s)) ∧ u.polls = 0
      ∧ u.resp = some { result := .ok, data := .bytes [freeAnswer s 1] } ∧ u.fr.phase = .idle ∧ u.sel = false := by
  obtain ⟨hl, hp, hs⟩ := h
  obtain ⟨v, hv⟩ : ∃ v, v = admitted (frame .body .statusRead s.cfg.opcStatusRead none 0 [] 1) s := ⟨_, rfl⟩
  have hrun : runSteps 4 v = .next (bodyFrame v) := by
    subst hv; exact runSteps_bodyFrame hl hp rfl rfl
  have hbus := bodyFrame_busRun (s := v) (by rw [hv]; exact hs)
  rw [bodyFrame_eq (s := v) (by rw [hv]; exact hs)] at hrun hbus
  subst hv
  exact ⟨_, hrun, { hbus with }, rfl, rfl, rfl, rfl⟩

theorem exec_statusRead_admits {s : State} (he : s.ended = false) :
    exec .statusRead s = .next (admitted (frame .body .statusRead s.cfg.opcStatusRead none 0 [] 1) s) := by
  simp [exec, execStatusRead, he]

/-- Settles O21: the body frame of one opcode and one fill byte, whose second answer is the response. -/
theorem statusReadReturnsTheByteAsReceived : Obligations.StatusReadReturnsTheByteAsReceived := by
  refine fun s => ⟨fun he => exec_ended he _, fun he => ⟨_, exec_statusRead_admits he, rfl, rfl, rfl, fun hu => ?_⟩⟩
  obtain ⟨u, hrun, hbus, hpolls, hresp, hidle, hsel⟩ := runSteps_statusRead hu
  exact ⟨u, hrun, hbus.endsCommand hpolls hresp hidle hsel⟩

/-! ## The pseudocode of a command, turn by turn (R131, R132) -/

section
variable {s : State} (n : Nat)

theorem runCommand_spent (hb : s.cfg.pollBudget = some s.polls) : runCommand (n + 1) s = raise .busTimeout s := by
  simp [runCommand, waitReady, hb]

theorem runCommand_ready (hb : s.cfg.pollBudget ≠ some s.polls) (hready : (statusFrame s).fr.phase = .body) :
    runCommand (n + 1) s = bodyFrame (statusFrame s) := by
  simp [runCommand, waitReady, hb, hready]

theorem runCommand_busy (hb : s.cfg.pollBudget ≠ some s.polls) (hbusy : (statusFrame s).fr.phase ≠ .body) :
    runCommand (n + 1) s = runCommand n (statusFrame s) := by
  simp [runCommand, waitReady, hb, hbusy]

end

theorem statusFrame_phase (s : State) : (statusFrame s).fr.phase = .body ∨ (statusFrame s).fr.phase = .poll := by
  show phaseAfter _ _ = .body ∨ phaseAfter _ _ = .poll
  unfold phaseAfter
  split <;> simp

/-- The micro-steps of a wait with `n` status frames left and of the body after it. -/
theorem runSteps_runCommand {b : Nat} (n : Nat) {s : State} (hl : s.cfg.legal = true) (hp : s.pins = [])
    (hb : s.cfg.pollBudget = some b) (hphase : s.fr.phase = .poll) (hpos : s.fr.pos = 0) (hn : s.polls + n = b) :
    ∃ m, m ≤ 4 * n + bodyLength s.cfg s.fr + 2 ∧ runSteps m s = .next (runCommand (n + 1) s)
      ∧ (runCommand (n + 1) s).fr.phase = .idle := by
  induction n generalizing s with
  | zero =>
    have hspent : s.cfg.pollBudget = some s.polls := by rw [hb, ← hn, Nat.add_zero]
    have hstep : step s = .next (raise .busTimeout s) := by rw [step_poll hl hp hphase, pollStep_zero hpos, if_pos hspent]
    rw [runCommand_spent 0 hspent]
    exact ⟨1, by omega, runSteps_succ hstep 0, rfl⟩
  | succ n ih =>
    have hleft : s.cfg.pollBudget ≠ some s.polls := by rw [hb, Ne, Option.some.injEq]; omega
    have hframe : runSteps 4 s = .next (statusFrame s) := runSteps_statusFrame hl hp hphase hpos hleft
    obtain hready | hbusy := statusFrame_phase s
    · rw [runCommand_ready (n + 1) hleft hready]
      refine ⟨4 + (bodyLength s.cfg s.fr + 2), by omega, ?_, rfl⟩
      rw [runSteps_add hframe]
      exact runSteps_bodyFrame (s := statusFrame s) hl hp hready rfl
    · have hpolls : (statusFrame s).polls = s.polls + 1 := rfl
      obtain ⟨m, hm, hrun, hidle⟩ := ih (s := statusFrame s) hl hp hb hbusy rfl (by omega)
      rw [runCommand_busy (n + 1) hleft (by simp [hbusy])]
      refine ⟨4 + m, ?_, by rw [runSteps_add hframe, hrun], hidle⟩
      have hlength : bodyLength (statusFrame s).cfg (statusFrame s).fr = bodyLength s.cfg s.fr := rfl
      omega

/-- Settles O40: by induction on the status frames left in the budget. -/
theorem microStepsRefineThePseudocode : Obligations.MicroStepsRefineThePseudocode :=
  fun s b hl hp hb hphase hpos hle => runSteps_runCommand (b - s.polls) hl hp hb hphase hpos (by omega)

/-! ## A wait without a budget (R240) -/

/-- Inside a status frame the wait goes on. -/
theorem runSteps_insideStatusFrame (n : Nat) {s : State} (hl : s.cfg.legal = true) (hp : s.pins = [])
    (hb : s.cfg.pollBudget = none) (hphase : s.fr.phase = .poll) (hn : s.fr.pos + n ≤ 3) :
    ∃ u, runSteps n s = .next u ∧ u.fr.phase = .poll := by
  induction n generalizing s with
  | zero => exact ⟨s, rfl, hphase⟩
  | succ n ih =>
    rw [runSteps_succ (step_poll hl hp hphase)]
    have hmove := pollStep_move s
    generalize pollStep s = t at hmove ⊢
    cases hmove with
    | spent hpos hspent => simp [hb] at hspent
    | selects hpos hleft => exact ih (s := nextPos (select s)) hl hp hb hphase (by simp; omega)
    | asks hpos => exact ih (s := nextPos (transfer s.cfg.opcStatusRead s)) hl hp hb hphase (by simp; omega)
    | samples hpos => exact ih (s := nextPos { transfer s.cfg.fillByte s with fr := _ }) hl hp hb hphase (by simp; omega)
    | tests hpos => omega

theorem busyFor_statusFrame {s : State} (h : s.stub = none) {k : Nat} (hbusy : BusyFor s (k + 1)) :
    BusyFor (statusFrame s) k := by
  intro j hj
  have hbus := statusFrame_busRun h
  rw [hbus.answers, hbus.cfg, show 2 + (2 * j + 1) = 2 * (j + 1) + 1 by omega]
  exact hbusy (j + 1) (by omega)

/-- A chip that shows busy holds an unbudgeted wait. -/
theorem runSteps_unbudgeted (k : Nat) {s : State} {n : Nat} (hu : Undisturbed s) (hb : s.cfg.pollBudget = none)
    (hphase : s.fr.phase = .poll) (hpos : s.fr.pos = 0) (hbusy : BusyFor s k) (hn : n ≤ 4 * k) :
    ∃ u, runSteps n s = .next u ∧ u.fr.phase = .poll := by
  obtain ⟨hl, hp, hs⟩ := hu
  induction k generalizing s n with
  | zero => exact runSteps_insideStatusFrame n hl hp hb hphase (by omega)
  | succ k ih =>
    obtain hfew | hmany := Nat.lt_or_ge n 4
    · exact runSteps_insideStatusFrame n hl hp hb hphase (by omega)
    · have hshows : (statusFrame s).fr.phase = .poll := by
        rw [statusFrame_fr hs]
        exact (phaseAfter_poll ..).2 (hbusy 0 (by omega))
      have hbus := statusFrame_busRun hs
      obtain ⟨u, hrun, hu⟩ := ih (s := statusFrame s) (n := n - 4) hb hshows rfl (busyFor_statusFrame hs hbusy) (by omega)
        hl hp (hbus.noStub hs)
      refine ⟨u, ?_, hu⟩
      rw [← hrun, ← runSteps_add (runSteps_statusFrame hl hp hphase hpos (by simp [hb])), Nat.add_sub_of_le hmany]

/-! ## With a finite budget every command ends (R240) -/

/-- A bound on the steps a command in flight still takes when the budget is `b`: the rest of the wait and a body frame, or the
rest of the body frame. -/
def stepsLeft (b : Nat) (s : State) : Nat :=
  match s.fr.phase with
  | .idle => 0
  | .poll => 4 * (b - s.polls) + bodyLength s.cfg s.fr + 2 - s.fr.pos
  | .body => (header s.cfg s.fr).length + 1 - s.fr.pos + s.fr.tx.length + s.fr.nrx + 1

theorem stepsLeft_idle {s : State} (b : Nat) (h : s.fr.phase = .idle) : stepsLeft b s = 0 := by simp [stepsLeft, h]

theorem stepsLeft_poll {s : State} (b : Nat) (h : s.fr.phase = .poll) :
    stepsLeft b s = 4 * (b - s.polls) + bodyLength s.cfg s.fr + 2 - s.fr.pos := by simp [stepsLeft, h]

theorem stepsLeft_body {s : State} (b : Nat) (h : s.fr.phase = .body) :
    stepsLeft b s = (header s.cfg s.fr).length + 1 - s.fr.pos + s.fr.tx.length + s.fr.nrx + 1 := by simp [stepsLeft, h]

theorem stepsLeft_le (b : Nat) (s : State) : stepsLeft b s ≤ 4 * (b - s.polls) + bodyLength s.cfg s.fr + 2 := by
  cases hphase : s.fr.phase with
  | idle => rw [stepsLeft_idle b hphase]; exact Nat.zero_le _
  | poll => rw [stepsLeft_poll b hphase]; omega
  | body => rw [stepsLeft_body b hphase, bodyLength]; omega

/-- One position further in the wait. -/
theorem stepsLeft_poll_next {s t : State} {b : Nat} (hphase : s.fr.phase = .poll)
    (hturn : s.fr.pos ≠ 0 → s.polls < b) (hpos : s.fr.pos < 3) (hphase' : t.fr.phase = .poll) (hpolls : t.polls = s.polls)
    (hlength : bodyLength t.cfg t.fr = bodyLength s.cfg s.fr) (hpos' : t.fr.pos = s.fr.pos + 1) :
    stepsLeft b t < stepsLeft b s := by
  rw [stepsLeft_poll b hphase, stepsLeft_poll b hphase', hpolls, hlength, hpos']
  omega

/-- Each row of the wait leaves a step less: inside a status frame its turn is still in the budget. -/
theorem PollMove.stepsLeft_lt {s t : State} {b : Nat} (hs : Coherent s) (hb : s.cfg.pollBudget = some b)
    (hphase : s.fr.phase = .poll) (h : PollMove s t) : stepsLeft b t < stepsLeft b s := by
  obtain ⟨-, hturn⟩ := hs.pollsWithinBudget b hb
  have hturn := hturn hphase
  cases h with
  | spent hpos _ => rw [stepsLeft_idle b rfl, stepsLeft_poll b hphase]; omega
  | selects hpos _ => exact stepsLeft_poll_next hphase hturn (by omega) hphase rfl rfl rfl
  | asks hpos => exact stepsLeft_poll_next hphase hturn (by omega) hphase rfl rfl rfl
  | samples hpos => exact stepsLeft_poll_next hphase hturn (by omega) hphase rfl rfl rfl
  | tests hpos =>
    obtain ⟨-, hbound⟩ := hs.pollPosition hphase
    have hpolls : s.polls < b := hturn (by omega)
    refine lt_of_le_of_lt (stepsLeft_le b _) ?_
    rw [stepsLeft_poll b hphase]
    show 4 * (b - (s.polls + 1)) + bodyLength s.cfg s.fr + 2 < _
    omega

/-- The row of R135 that the body walks, and what it takes from the bytes still to send or to receive. -/
inductive BodyMove (s : State) : State → Prop
  | selects (hpos : s.fr.pos = 0) : BodyMove s (nextPos (select s))
  | sendsHeader (b : Byte) (hpos : 0 < s.fr.pos) (hle : s.fr.pos ≤ (header s.cfg s.fr).length) :
      BodyMove s (nextPos (transfer b s))
  | sendsPayload (u : Byte) (us : List Byte) (htx : s.fr.tx = u :: us) :
      BodyMove s (nextPos { transfer u s with fr := { s.fr with tx := us } })
  | receives (n : Nat) (hrx : s.fr.nrx = n + 1) :
      BodyMove s (nextPos { transfer s.cfg.fillByte s with
        fr := { s.fr with nrx := n, rx := s.fr.rx ++ [deliver s.fr.cmd (chipReply s)] } })
  | ends : BodyMove s (complete (unselect s))

theorem bodyStep_move (s : State) : BodyMove s (bodyStep s) := by
  rcases hpos : s.fr.pos with _ | p
  · simpa [bodyStep, hpos] using BodyMove.selects hpos
  · rcases hb : (header s.cfg s.fr)[p]? with _ | b
    · rcases htx : s.fr.tx with _ | ⟨u, us⟩
      · rcases hrx : s.fr.nrx with _ | n
        · simpa [bodyStep, hpos, hb, htx, hrx] using BodyMove.ends (s := s)
        · simpa [bodyStep, hpos, hb, htx, hrx] using BodyMove.receives n hrx
      · simpa [bodyStep, hpos, hb, htx] using BodyMove.sendsPayload u us htx
    · obtain ⟨hlt, -⟩ := List.getElem?_eq_some_iff.1 hb
      simpa [bodyStep, hpos, hb] using BodyMove.sendsHeader b (s := s) (by omega) (by omega)

/-- Each event of the body frame leaves a step less: the release, a byte of the header, of the payload, or received. -/
theorem BodyMove.stepsLeft_lt {s t : State} (b : Nat) (hphase : s.fr.phase = .body) (h : BodyMove s t) :
    stepsLeft b t < stepsLeft b s := by
  rw [stepsLeft_body b hphase]
  cases h with
  | selects hpos =>
    refine lt_of_eq_of_lt (stepsLeft_body b hphase) ?_
    show (header s.cfg s.fr).length + 1 - (s.fr.pos + 1) + s.fr.tx.length + s.fr.nrx + 1 < _
    omega
  | sendsHeader c hpos hle =>
    refine lt_of_eq_of_lt (stepsLeft_body b hphase) ?_
    show (header s.cfg s.fr).length + 1 - (s.fr.pos + 1) + s.fr.tx.length + s.fr.nrx + 1 < _
    omega
  | sendsPayload u us htx =>
    rw [htx, List.length_cons]
    refine lt_of_eq_of_lt (stepsLeft_body b hphase) ?_
    show (header s.cfg s.fr).length + 1 - (s.fr.pos + 1) + us.length + s.fr.nrx + 1 < _
    omega
  | receives n hrx =>
    rw [hrx]
    refine lt_of_eq_of_lt (stepsLeft_body b hphase) ?_
    show (header s.cfg s.fr).length + 1 - (s.fr.pos + 1) + s.fr.tx.length + n + 1 < _
    omega
  | ends => rw [stepsLeft_idle b rfl]; omega

/-- A command in flight with a finite budget: its next step is one of those it has left. -/
theorem step_stepsLeft_lt {s : State} {b : Nat} (hl : s.cfg.legal = true) (hp : s.pins = []) (hs : Coherent s)
    (hb : s.cfg.pollBudget = some b) (hinflight : s.fr.phase ≠ .idle) :
    ∃ t, step s = .next t ∧ stepsLeft b t < stepsLeft b s := by
  cases hphase : s.fr.phase with
  | idle => exact absurd hphase hinflight
  | poll => exact ⟨_, step_poll hl hp hphase, (pollStep_move s).stepsLeft_lt hs hb hphase⟩
  | body => exact ⟨_, step_body hl hp hphase, (bodyStep_move s).stepsLeft_lt b hphase⟩

theorem runSteps_stepsLeft {s : State} {b : Nat} (hl : s.cfg.legal = true) (hp : s.pins = []) (hs : Coherent s)
    (hb : s.cfg.pollBudget = some b) : ∃ n u, n ≤ stepsLeft b s ∧ runSteps n s = .next u ∧ u.fr.phase = .idle := by
  induction hm : stepsLeft b s using Nat.strong_induction_on generalizing s with
  | _ m ih =>
    by_cases hidle : s.fr.phase = .idle
    · exact ⟨0, s, Nat.zero_le _, rfl, hidle⟩
    · obtain ⟨t, hstep, hlt⟩ := step_stepsLeft_lt hl hp hs hb hidle
      obtain ⟨hcfg, hpins⟩ := step_cfg_pins hstep
      obtain ⟨n, u, hn, hrun, hu⟩ := ih _ (hm ▸ hlt) (s := t) (by rw [hcfg, hl]) (by rw [hpins, hp]; rfl)
        (stepKeepsCoherence s t hs hstep) (by rw [hcfg, hb]) rfl
      exact ⟨n + 1, u, by omega, by rw [runSteps_succ hstep, hrun], hu⟩

/-- Settles O41: without a budget by induction on the busy status frames; with one every step of a coherent state (O37) is one of
the finitely many left. -/
theorem onlyAnInfiniteBudgetHangs : Obligations.OnlyAnInfiniteBudgetHangs := by
  refine ⟨fun s k n hu hb hphase hpos hbusy hn => runSteps_unbudgeted k hu hb hphase hpos hbusy hn,
    fun s b hl hp hs hb _ => ?_⟩
  obtain ⟨n, u, hn, hrun, hidle⟩ := runSteps_stepsLeft hl hp hs hb
  have := stepsLeft_le b s
  exact ⟨n, u, by omega, hrun, hidle⟩

end Sys2Proof.Machine
end

section
/-!
PROOFS about the client: the step while no command is in flight (R36, log 17), what the actions of the routines do, and the two
runs of a whole routine.
-/

namespace Sys2Proof.Machine

/-! ## The step while no command is in flight -/

/-- The client has taken a routine from its program, and has no result of it yet. -/
def routineTaken (more : List Move) (s : State) : State :=
  { s with client := { s.client with program := more, result := none } }

section
variable {s : State} (hl : s.cfg.legal = true) (hp : s.pins = []) (hidle : s.fr.phase = .idle)
include hl hp hidle

theorem step_action {op : ClientOp} {rest : List ClientOp} (htodo : s.client.todo = op :: rest) :
    step s = clientOp op rest s := by
  simp [step_idle hl hp hidle, clientMove, htodo]

theorem step_command {i : Instr} {more : List Move} (htodo : s.client.todo = [])
    (hprogram : s.client.program = .command (.row i) :: more) : step s = exec i (setProgram more s) := by
  simp [step_idle hl hp hidle, clientMove, htodo, hprogram, present]

theorem step_routine {r : Routine} {more : List Move} (htodo : s.client.todo = [])
    (hprogram : s.client.program = .routine r :: more) : step s = .next (beginRoutine r (setProgram more s)) := by
  simp [step_idle hl hp hidle, clientMove, htodo, hprogram]

theorem step_setTodo (op : ClientOp) (rest : List ClientOp) :
    step (setTodo (op :: rest) s) = clientOp op rest (setTodo (op :: rest) s) :=
  step_action (s := setTodo (op :: rest) s) hl hp hidle rfl

theorem step_beginRoutine {r : Routine} {more : List Move} {ops : List ClientOp} (htodo : s.client.todo = [])
    (hprogram : s.client.program = .routine r :: more) (hexpand : expand (setProgram more s) r = .ok ops) :
    step s = .next (setTodo ops (routineTaken more s)) := by
  rw [step_routine hl hp hidle htodo hprogram, beginRoutine, hexpand]
  rfl

end

/-- Settles O30: a command of the program is presented, and a word that decodes stands at the head of the program. -/
theorem stepRunsThePresentedCommand : Obligations.StepRunsThePresentedCommand := by
  refine ⟨fun s i rest hl hp hidle htodo hprogram => step_command hl hp hidle htodo hprogram, fun s nbits w i hl hi => ?_⟩
  have hfetch : s.withFetchWord nbits w = presentNext i s := by simp [State.withFetchWord, hi]
  rw [hfetch]
  exact step_command (s := presentNext i s) hl rfl rfl rfl rfl

/-! ## The actions of a session (R177 to R179) -/

/-- Settles O42: the first line of each session routine looks at the session alone. -/
theorem sessionMisuseFailsFast : Obligations.SessionMisuseFailsFast := by
  intro s rest a v hl hp hidle
  refine ⟨fun p hsession htodo => ?_, fun hsession htodo => ?_, fun hsession htodo => ?_⟩
  all_goals
    rw [step_action hl hp hidle htodo]
    simp [clientOp, hsession, failRoutine]

/-- Settles O43: `startOps` and `sessionOps` written out. -/
theorem pageCrossingFlushesThenFetches : Obligations.PageCrossingFlushesThenFetches := by
  rintro s rest a v active target hl hp hidle rfl
  refine ⟨fun hsession htodo => ?start, fun hsession htodo hsame => ?samePage, fun hsession htodo hcross => ?crossing,
    fun hsession htodo => ?stop, fun p htodo => ?setActive⟩
  all_goals rw [step_action hl hp hidle htodo]
  case start => simp [clientOp, hsession, startOps, setTodo, pageOf, invert]
  case samePage => simp [clientOp, hsession, sessionOps, setTodo, pageOf, offsetOf, hsame]
  case crossing => simp [clientOp, hsession, sessionOps, setTodo, pageOf, offsetOf, hcross]
  case stop => simp [clientOp, hsession, setTodo]
  case setActive => rfl

/-! ## Reading the response (R170, R172) -/

theorem checkResp_ok {s : State} {d : RespData} (h : s.resp = some { result := .ok, data := d }) (rest : List ClientOp)
    (onFailure : Result → State) : checkResp rest onFailure s = setTodo rest s := by
  simp [checkResp, h]

theorem checkResp_failure {s : State} {r : Result} {d : RespData} (h : s.resp = some { result := r, data := d })
    (hr : r ≠ .ok) (rest : List ClientOp) (onFailure : Result → State) : checkResp rest onFailure s = onFailure r := by
  cases r with
  | ok => exact absurd rfl hr
  | _ => simp [checkResp, h]

/-- Settles O44: `check` ends the routine with the code, `checkDetect` with false. -/
theorem routineStopsAtAFailure : Obligations.RoutineStopsAtAFailure := by
  intro s rest r d hl hp hidle hresp hr
  refine ⟨fun htodo => ?_, fun htodo => ?_⟩
  · rw [step_action hl hp hidle htodo, clientOp, checkResp_failure hresp hr]; rfl
  · rw [step_action hl hp hidle htodo, clientOp, checkResp_failure hresp hr]; rfl

/-! ## The detection (R172, R173) -/

theorem respBytes_of_resp {s : State} {r : Result} {l : List Byte} (h : s.resp = some { result := r, data := .bytes l }) :
    respBytes s = l := by
  simp [respBytes, h]

theorem respByte_of_resp {s : State} {r : Result} {b : Byte} (h : s.resp = some { result := r, data := .bytes [b] }) :
    respByte s = b := by
  simp [respByte, respBytes_of_resp h]

section
variable {s : State} {left polls e : Nat} {rest : List ClientOp}

theorem detectInner_match (hready : ready s.cfg (respByte s) = true) (hmatch : densityIndex (respByte s) = some e) :
    detectInner left polls e rest s
      = exec (.commitGeometry e) (setTodo (.checkDetect :: .finish (.bool true) :: rest) s) := by
  simp [detectInner, hready, hmatch, present]

theorem detectInner_otherDensity (hready : ready s.cfg (respByte s) = true)
    (hother : densityIndex (respByte s) ≠ some e) :
    detectInner left polls e rest s = .next (setTodo (.detect left e :: rest) s) := by
  simp [detectInner, hready, hother]

theorem detectInner_again (hbusy : ready s.cfg (respByte s) = false) (hleft : s.cfg.pollBudget ≠ some polls) :
    detectInner left polls e rest s
      = exec .statusRead (setTodo (.checkDetect :: .detectPoll left (polls + 1) e :: rest) s) := by
  simp [detectInner, hbusy, hleft, present]

theorem detectInner_spent (hbusy : ready s.cfg (respByte s) = false) (hspent : s.cfg.pollBudget = some polls) :
    detectInner left polls e rest s = .next (setTodo (.detect left e :: rest) s) := by
  simp [detectInner, hbusy, hspent]

end

theorem exec_statusRead_geom {s t : State} (h : exec .statusRead s = .next t) : t.geom = s.geom := by
  simp only [exec, execStatusRead] at h
  split at h <;> cases h <;> rfl

/-- Settles O45: the four branches of the inner poll, of which the match alone presents a commit. -/
theorem detectionCommitsOnlyAMatch : Obligations.DetectionCommitsOnlyAMatch := by
  intro s rest left polls e b hl hp hidle hresp
  have hb : respByte s = b := respByte_of_resp hresp
  refine ⟨fun htodo => ?_, fun htodo => ?_⟩
  · rw [step_action hl hp hidle htodo, clientOp, hb]
    split <;> rfl
  · rw [step_action hl hp hidle htodo, clientOp, ← hb]
    refine ⟨detectInner_match, detectInner_otherDensity, detectInner_again, detectInner_spent, fun t hno h => ?_⟩
    cases hready : ready s.cfg (respByte s) with
    | true =>
      rw [detectInner_otherDensity hready fun hmatch => hno ⟨hready, hmatch⟩] at h
      cases h; rfl
    | false =>
      by_cases hspent : s.cfg.pollBudget = some polls
      · rw [detectInner_spent hready hspent] at h
        cases h; rfl
      · rw [detectInner_again hready hspent] at h
        exact (exec_statusRead_geom h).trans rfl

/-! ## Sized erases (R185, R186) -/

theorem mem_coveringBlocks {start n i : Nat} :
    i ∈ coveringBlocks start n ↔ n ≠ 0 ∧ start / 8 ≤ i ∧ i ≤ (start + n - 1) / 8 := by
  unfold coveringBlocks
  split
  case isTrue hn => simp [hn]
  case isFalse hn =>
    have hle : start / 8 ≤ (start + n - 1) / 8 := Nat.div_le_div_right (by omega)
    simp only [Config.blockPages, List.mem_range'_1]
    omega

/-- Settles O49: block `i` holds page `max start (8 * i)`. -/
theorem sizedEraseCoversExactlyItsPages : Obligations.SizedEraseCoversExactlyItsPages := by
  refine fun start n => ⟨fun i => ?_, ?_⟩
  · rw [mem_coveringBlocks]
    constructor
    · rintro ⟨hn, hfirst, hlast⟩
      exact ⟨max start (8 * i), by omega, by omega, by omega⟩
    · rintro ⟨p, hfirst, hlast, rfl⟩
      omega
  · unfold coveringBlocks
    split
    · exact .nil
    · exact List.pairwise_lt_range'

/-- The check of a sized erase fails when its address or one of its blocks does not exist. -/
theorem eraseOutOfRange_iff (g : Geometry) (a : Addr) (blocks : List Nat) :
    (decide (capacity g ≤ a.toNat) || blocks.any fun i => !blockInRange g i) = true
      ↔ ¬ (a.toNat < g.totalPages * g.pageByteSize ∧ ∀ i ∈ blocks, i < g.totalPages / 8) := by
  rw [Bool.or_eq_true, decide_eq_true_eq, List.any_eq_true, not_and_or, Nat.not_lt, capacity]
  simp [blockInRange]

section
variable {s : State} {a : Addr} {size : Nat} (hv : s.geom.valid = true)
include hv

theorem eraseStart_inRange (h : s.cfg.boundsCheck = true → a.toNat < s.geom.totalPages * s.geom.pageByteSize
      ∧ ∀ i ∈ eraseTargets s.cfg s.geom.toGeometry a size, i < s.geom.totalPages / 8) :
    eraseStart s a size = .ok (eraseBlocksOps (eraseTargets s.cfg s.geom.toGeometry a size) ++ [.finish .unit]) := by
  rw [eraseStart, if_neg (by simp [hv]), if_neg]
  rw [Bool.and_eq_true, eraseOutOfRange_iff]
  exact fun ⟨hc, hout⟩ => hout (h hc)

theorem eraseStart_outOfRange (hc : s.cfg.boundsCheck = true)
    (h : ¬ (a.toNat < s.geom.totalPages * s.geom.pageByteSize
      ∧ ∀ i ∈ eraseTargets s.cfg s.geom.toGeometry a size, i < s.geom.totalPages / 8)) :
    eraseStart s a size = .error (.code .outOfRange) := by
  rw [eraseStart, if_neg (by simp [hv]), if_pos]
  rw [Bool.and_eq_true, eraseOutOfRange_iff]
  exact ⟨hc, h⟩

end

theorem beginRoutine_error {r : Routine} {s : State} {f : Failure} (h : expand s r = .error f) :
    beginRoutine r s = failRoutine f s := by
  simp [beginRoutine, h]

/-- Settles O48: the four routines begin with the same check, which presents nothing. -/
theorem sizedEraseChecksBeforeItErases : Obligations.SizedEraseChecksBeforeItErases := by
  rintro s r more a size blocks hl hp hidle hv htodo hprogram hr rfl
  have hexpand : expand (setProgram more s) r = eraseStart (setProgram more s) a size := by
    obtain rfl | ⟨rfl, rfl⟩ | ⟨rfl, rfl⟩ | ⟨rfl, rfl⟩ := hr <;> rfl
  refine ⟨fun hin => ?_, fun hc hout => ?_⟩
  · rw [step_beginRoutine hl hp hidle htodo hprogram (hexpand.trans (eraseStart_inRange hv hin))]
    rfl
  · rw [step_routine hl hp hidle htodo hprogram, beginRoutine_error (hexpand.trans (eraseStart_outOfRange hv hc hout))]
    rfl

/-- Settles O50: the routine is one action, which returns. -/
theorem sleepAndWakeupDoNothing : Obligations.SleepAndWakeupDoNothing := by
  rintro s r more hr hl hp hidle htodo hprogram
  have hexpand : expand (setProgram more s) r = .ok [.finish .unit] := by obtain rfl | rfl := hr <;> rfl
  rw [runSteps_succ (step_beginRoutine hl hp hidle htodo hprogram hexpand),
    runSteps_succ (step_setTodo (s := routineTaken more s) hl hp hidle _ _)]
  simp [htodo, setTodo, routineTaken, returnRoutine]

/-! ## readBytes, from its first step to its last (R176) -/

/-- Past its command a read routine looks at the response, and returns the bytes of it. -/
theorem runSteps_finishBytes {s : State} {l : List Byte} (hl : s.cfg.legal = true) (hp : s.pins = [])
    (hidle : s.fr.phase = .idle) (htodo : s.client.todo = [.check, .finishBytes])
    (hresp : s.resp = some { result := .ok, data := .bytes l }) :
    runSteps 2 s = .next (returnRoutine (.bytes l) (setTodo [.finishBytes] s)) := by
  have hcheck : step s = .next (setTodo [.finishBytes] s) := by
    rw [step_action hl hp hidle htodo, clientOp, checkResp_ok hresp]
  have hfinish : step (setTodo [.finishBytes] s) = .next (returnRoutine (.bytes l) (setTodo [.finishBytes] s)) := by
    rw [step_setTodo hl hp hidle, clientOp, respBytes_of_resp (s := setTodo [.finishBytes] s) hresp]
  rw [runSteps_succ hcheck, runSteps_succ hfinish, runSteps_zero]

/-- A read in range, from its admission to its end, once status frame `k` shows ready (O22). -/
theorem exec_readArray_ends {s : State} {a : Addr} {n k : Nat} (hu : Undisturbed s) (he : s.ended = false)
    (hv : s.geom.valid = true) (ha : a.toNat < s.geom.totalPages * s.geom.pageByteSize)
    (hn : a.toNat + n ≤ s.geom.totalPages * s.geom.pageByteSize) (hready : ReadyAtPoll s k) (hbudget : WithinBudget s k) :
    ∃ v u events, exec (.readArray a n) s = .next v ∧ runSteps (4 * k + n + 10) v = .next u
      ∧ EndsCommand s u k .ok ((List.range n).map fun j => ~~~ freeAnswer s (2 * k + 8 + j)) events := by
  obtain ⟨f, hadmit, -, -, -, -, hruns, -⟩ :=
    (readArrayReturnsInvertedBytes a n s).runs s.cfg.opcReadArray he hv rfl fun _ => ⟨ha, hn⟩
  obtain ⟨u, hrun, hends⟩ := hruns hu k hready hbudget
  simp only [← Nat.add_assoc] at hends
  refine ⟨_, u, _, hadmit, ?_, hends⟩
  rw [← hrun]
  congr 1
  simp
  omega

/-- Settles O47: one step begins the routine, one presents its command, which runs to its end, and two return what it read. -/
theorem readBytesReturnsTheArrayRun : Obligations.ReadBytesReturnsTheArrayRun := by
  intro s a n k more hu hidle he hv htodo hprogram ha hn hready hbudget
  have hl : s.cfg.legal = true := hu.1
  have hp : s.pins = [] := hu.2.1
  have hbegin := step_beginRoutine hl hp hidle htodo hprogram rfl
  have hcall := step_setTodo (s := routineTaken more s) hl hp hidle (.call (.row (.readArray a n))) [.finishBytes]
  obtain ⟨v, u, events, hadmit, hrun, hends⟩ :=
    exec_readArray_ends (s := setTodo [.check, .finishBytes] (routineTaken more s)) hu he hv ha hn hready hbudget
  have hfinish := runSteps_finishBytes (s := u) (by rw [hends.params]; exact hl) (by rw [hends.pins]; exact hp) hends.idle
    (by rw [hends.client]; rfl) hends.resp
  refine ⟨_, (?_ : runSteps _ s = .next (returnRoutine (.bytes _) (setTodo [.finishBytes] u))), rfl, ?_, rfl, hends.geom,
    hends.released⟩
  · rw [show 4 * k + n + 14 = 4 * k + n + 10 + 2 + 1 + 1 by omega, runSteps_succ hbegin, runSteps_succ (hcall.trans hadmit)]
    exact (runSteps_add hrun 2).trans hfinish
  · show u.client.program = more
    rw [hends.client]
    rfl

/-! ## A detection without a match, from its first step to its last (R172) -/

theorem BusRun.undisturbed {s t : State} {n : Nat} {es : List BusEvent} (h : BusRun s t n es) (hs : Undisturbed s) :
    Undisturbed t := by
  obtain ⟨hl, hp, hstub⟩ := hs
  exact ⟨by rw [h.cfg, hl], by rw [h.pins, hp], h.noStub hstub⟩

/-- What the client has still to do is not on the bus. -/
theorem BusRun.setTodo {s t : State} {n : Nat} {es : List BusEvent} {ops' : List ClientOp}
    (h : BusRun (setTodo ops' s) t n es) (ops : List ClientOp) : BusRun (setTodo ops s) (setTodo ops t) n es :=
  { h with client := by rw [setTodo_client, h.client]; rfl }

/-- An attempt of the detection of index `e` that reads this status byte has no match: no chip, or another density. -/
def NoMatch (c : Config) (e : Nat) (b : Byte) : Prop := b = 0 ∨ ready c b = true ∧ densityIndex b ≠ some e

/-- The actions of an attempt that come after its status read: they look at the byte and go on to the next attempt. -/
theorem runSteps_noMatch {s : State} {left e : Nat} {b : Byte} (hl : s.cfg.legal = true) (hp : s.pins = [])
    (hidle : s.fr.phase = .idle) (htodo : s.client.todo = [.checkDetect, .detectFirst left e])
    (hresp : s.resp = some { result := .ok, data := .bytes [b] }) (hb : NoMatch s.cfg e b) :
    ∃ n, runSteps n s = .next (setTodo [.detect left e] s) := by
  have hbyte : ∀ ops, respByte (setTodo ops s) = b := fun _ => respByte_of_resp hresp
  have hcheck : step s = .next (setTodo [.detectFirst left e] s) := by
    rw [step_action hl hp hidle htodo, clientOp, checkResp_ok hresp]
  have hfirst := step_setTodo hl hp hidle (.detectFirst left e) []
  rw [clientOp, hbyte] at hfirst
  by_cases h0 : b = 0
  · rw [if_pos h0] at hfirst
    exact ⟨2, by rw [runSteps_succ hcheck, runSteps_succ hfirst]; rfl⟩
  · rw [if_neg h0] at hfirst
    obtain ⟨hready, hother⟩ := hb.resolve_left h0
    have hpoll := step_setTodo hl hp hidle (.detectPoll left 0 e) []
    rw [clientOp, detectInner_otherDensity (by rw [hbyte]; exact hready) (by rw [hbyte]; exact hother)] at hpoll
    exact ⟨3, by rw [runSteps_succ hcheck, runSteps_succ hfirst]; exact runSteps_succ hpoll 0⟩

/-- One attempt without a match sends one status frame. -/
theorem runSteps_attempt {s : State} {left e : Nat} (hu : Undisturbed s) (hidle : s.fr.phase = .idle)
    (he : s.ended = false) (htodo : s.client.todo = [.detect (left + 1) e]) (hb : NoMatch s.cfg e (freeAnswer s 1)) :
    ∃ n u, runSteps n s = .next u ∧ u.fr.phase = .idle
      ∧ BusRun (setTodo [.detect left e] s) u 2 (frameTrace [s.cfg.opcStatusRead, s.cfg.fillByte] (freeAnswer s)) := by
  have hl : s.cfg.legal = true := hu.1
  have hp : s.pins = [] := hu.2.1
  have hread : step s = .next (admitted (frame .body .statusRead s.cfg.opcStatusRead none 0 [] 1)
      (setTodo [.checkDetect, .detectFirst left e] s)) := by
    rw [step_action hl hp hidle htodo]
    exact exec_statusRead_admits (s := setTodo _ s) he
  obtain ⟨t, hrun, hbus, -, hresp, hidle', -⟩ :=
    runSteps_statusRead (s := setTodo [.checkDetect, .detectFirst left e] s) hu
  obtain ⟨hl', hp', -⟩ := hbus.undisturbed hu
  obtain ⟨n, hnext⟩ := runSteps_noMatch hl' hp' hidle' (by rw [hbus.client]; rfl) hresp (by rw [hbus.cfg]; exact hb)
  have hwhole : runSteps (4 + n + 1) s = .next (setTodo [.detect left e] t) :=
    (runSteps_succ hread _).trans ((runSteps_add hrun n).trans hnext)
  exact ⟨_, _, hwhole, hidle', hbus.setTodo _⟩

/-- The first `k` attempts, none with a match, `left` to come after them. -/
theorem runSteps_attempts {s : State} {e : Nat} (k : Nat) {left : Nat} (hu : Undisturbed s) (hidle : s.fr.phase = .idle)
    (he : s.ended = false) (htodo : s.client.todo = [.detect (k + left) e])
    (hb : ∀ j, j < k → NoMatch s.cfg e (freeAnswer s (2 * j + 1))) :
    ∃ n u, runSteps n s = .next u ∧ u.fr.phase = .idle
      ∧ BusRun (setTodo [.detect left e] s) u (2 * k) (pollTrace s.cfg (freeAnswer s) k) := by
  induction k generalizing left with
  | zero =>
    have hs : setTodo [.detect left e] s = s := by rw [← Nat.zero_add left, ← htodo]; rfl
    exact ⟨0, s, rfl, hidle, by rw [hs]; exact BusRun.refl s⟩
  | succ k ih =>
    obtain ⟨n, t, hrun, hidle', hbus⟩ := ih (left := left + 1) (by rw [htodo, Nat.add_assoc, Nat.add_comm 1])
      fun j hj => hb j (by omega)
    have hcfg : t.cfg = s.cfg := hbus.cfg
    have hanswer : freeAnswer t = fun j => freeAnswer s (2 * k + j) := funext hbus.answers
    obtain ⟨m, u, hrun', hidle'', hbus'⟩ := runSteps_attempt (left := left) (e := e) (hbus.undisturbed hu) hidle'
      (by rw [hbus.ended]; exact he) (by rw [hbus.client]; rfl) (by rw [hcfg, hanswer]; exact hb k (by omega))
    rw [hcfg, hanswer] at hbus'
    exact ⟨n + m, u, by rw [runSteps_add hrun, hrun'], hidle'', (hbus.setTodo [.detect left e]).trans hbus'⟩

/-- Settles O46: ten attempts by induction, after which the detection has none left and returns false. -/
theorem detectionRejectsAnotherDensity : Obligations.DetectionRejectsAnotherDensity := by
  intro s e more hu hidle he htodo hprogram hanswers
  have hbegin := step_beginRoutine hu.1 hu.2.1 hidle htodo hprogram rfl
  obtain ⟨n, t, hrun, hidle', hbus⟩ := runSteps_attempts (s := setTodo [.detect 10 e] (routineTaken more s)) 10 (left := 0)
    hu hidle he rfl hanswers
  obtain ⟨hl, hp, -⟩ := hbus.undisturbed hu
  have hlast : step t = .next (returnRoutine (.bool false) t) := by
    rw [step_action hl hp hidle' (by rw [hbus.client]; rfl), clientOp, detectAttempt]
  have hwhole : runSteps (n + 1 + 1) s = .next (returnRoutine (.bool false) t) :=
    (runSteps_succ hbegin _).trans ((runSteps_add hrun 1).trans (runSteps_succ hlast 0))
  refine ⟨_, _, hwhole, rfl, ?_, rfl, hbus.geom, hbus.trace⟩
  show t.client.program = more
  rw [hbus.client]
  rfl

end Sys2Proof.Machine
end

section
/-!
PROOFS about the chip stub (R192): which buffer an opcode selects, what it receives in a frame, and what the frames of a fetch, a
buffer write and a program do to it.
-/

namespace Sys2Proof.Machine

/-! ## The opcodes of the enumerated tables (R89) -/

theorem bufferOfOpcode_zero {c : Config} {table : List Byte} {opc : Byte} (h : c.bufOpcode table 0 = some opc) :
    bufferOfOpcode c table opc = some 0 := by
  unfold Config.bufOpcode at h
  split at h
  case isFalse => simp at h
  case isTrue hpos =>
    obtain ⟨n, hn⟩ : ∃ n, c.nBuffers = n + 1 := ⟨c.nBuffers - 1, by omega⟩
    cases table with
    | nil => simp at h
    | cons x xs =>
      obtain rfl : x = opc := by simpa using h
      simp [bufferOfOpcode, hn, List.findIdx?_cons]

/-- With two buffers an opcode other than the table's two entries selects no buffer of it. -/
theorem bufferOfOpcode_none {c : Config} {table : List Byte} {opc : Byte} (hn : c.nBuffers = 2)
    (h0 : c.bufOpcode table 0 ≠ some opc) (h1 : c.bufOpcode table 1 ≠ some opc) : bufferOfOpcode c table opc = none := by
  simp only [Config.bufOpcode, hn] at h0 h1
  rw [bufferOfOpcode, hn, List.findIdx?_eq_none_iff]
  intro x hx
  match table with
  | [] => simp at hx
  | [y] => simp at h0 hx; simp [hx, h0]
  | y :: z :: _ =>
    simp at h0 h1 hx
    obtain rfl | rfl := hx <;> simp [h0, h1]

theorem WireOp.opcode_byte_ne {c : Config} (hc : c.opcodesDistinct = true) {x y : WireOp} {b b' : Byte} (hxy : x ≠ y)
    (hx : x.opcode c = some b) (hy : y.opcode c = some b') : b ≠ b' :=
  fun h => WireOp.opcode_ne hc hxy (by rw [hx, hy, h])

section
variable {c : Config} (hc : c.opcodesDistinct = true) (hn : c.nBuffers = 2) {op : WireOp} {opc : Byte}
  (hopc : op.opcode c = some opc)
include hc hn hopc

theorem bufferOfOpcode_bufWrite_none (h0 : op ≠ .bufWrite0) (h1 : op ≠ .bufWrite1) :
    bufferOfOpcode c c.opcBufWrite opc = none :=
  bufferOfOpcode_none hn (hopc ▸ (WireOp.opcode_ne hc h0).symm) (hopc ▸ (WireOp.opcode_ne hc h1).symm)

theorem bufferOfOpcode_pageToBuf_none (h0 : op ≠ .pageToBuf0) (h1 : op ≠ .pageToBuf1) :
    bufferOfOpcode c c.opcPageToBuf opc = none :=
  bufferOfOpcode_none hn (hopc ▸ (WireOp.opcode_ne hc h0).symm) (hopc ▸ (WireOp.opcode_ne hc h1).symm)

theorem bufferOfOpcode_bufToPage_none (h0 : op ≠ .bufToPage0) (h1 : op ≠ .bufToPage1) :
    bufferOfOpcode c c.opcBufToPage opc = none :=
  bufferOfOpcode_none hn (hopc ▸ (WireOp.opcode_ne hc h0).symm) (hopc ▸ (WireOp.opcode_ne hc h1).symm)

end

/-! ## A frame received -/

/-- The stub with other bytes received so far. -/
def Stub.withReceived (bytes : List Byte) (k : Stub) : Stub := { k with received := bytes }

/-- The stub with other buffers. -/
def Stub.withBuffers (m : Memory) (k : Stub) : Stub := { k with buffers := m }

@[simp] theorem Stub.withReceived_geom (bytes : List Byte) (k : Stub) : (k.withReceived bytes).geom = k.geom := rfl

section
variable {c : Config} {k : Stub} {opc : Byte} {w : Wire} {tail : List Byte}

theorem Stub.wire?_eq (h : k.received = [opc] ++ wireBytes w ++ tail) : k.wire? = some w := by
  simp [Stub.wire?, h, wireBytes, wireOfBytes_split]

/-- Until the address bytes are there nothing is stored. -/
theorem Stub.receive_header (c : Config) (k : Stub) (opc : Byte) (w : Wire) :
    ([opc] ++ wireBytes w).foldl (Stub.receive c) k.select = k.withReceived ([opc] ++ wireBytes w) := rfl

/-- Bytes after the address of a frame that is no buffer write are not stored. -/
theorem Stub.receive_ignored (h : k.received = [opc] ++ wireBytes w ++ tail)
    (hopc : bufferOfOpcode c c.opcBufWrite opc = none) (bytes : List Byte) :
    bytes.foldl (Stub.receive c) k = k.withReceived (k.received ++ bytes) := by
  induction bytes generalizing k tail with
  | nil => simp [Stub.withReceived]
  | cons b bs ih =>
    have hfirst : k.receive c b = k.withReceived (k.received ++ [b]) := by
      simp [Stub.receive, Stub.storePayload, h, Stub.wire?_eq h, hopc, Stub.withReceived]
    rw [List.foldl_cons, hfirst, ih (tail := tail ++ [b]) (by simp [h, Stub.withReceived])]
    simp [Stub.withReceived]

/-- The first payload byte of a buffer write is stored at its offset (R192). -/
theorem Stub.receive_payload {b : Nat} (h : k.received = [opc] ++ wireBytes w) (hbusy : k.busy = 0)
    (hopc : bufferOfOpcode c c.opcBufWrite opc = some b) (hoffset : offsetField k.geom w < k.geom.pageByteSize) (v : Byte) :
    k.receive c v = (k.withBuffers (k.buffers.write (linearOf k.geom b (offsetField k.geom w)) v)).withReceived
      (k.received ++ [v]) := by
  have hw : k.wire? = some w := Stub.wire?_eq (tail := []) (by simpa using h)
  simp [Stub.receive, Stub.storePayload, h, hw, hopc, hbusy, hoffset, Nat.mod_eq_of_lt hoffset, Stub.withBuffers,
    Stub.withReceived]

theorem Stub.unselect_of_execute {k' : Stub} (h : k.execute c = k') : k.unselect c = k'.withReceived [] := by
  rw [Stub.unselect, h]; rfl

section
variable (h : k.received = [opc] ++ wireBytes w ++ tail) (hstatus : opc ≠ c.opcStatusRead) (hbusy : k.busy = 0)
include h hstatus hbusy

theorem Stub.execute_fetch {b : Nat} (hopc : bufferOfOpcode c c.opcPageToBuf opc = some b) : k.execute c = k.fetch b w := by
  simp [Stub.execute, Stub.wire?_eq h, h, hstatus, hbusy, hopc]

theorem Stub.execute_program {b : Nat} (hfetch : bufferOfOpcode c c.opcPageToBuf opc = none)
    (hopc : bufferOfOpcode c c.opcBufToPage opc = some b) : k.execute c = k.program b w := by
  simp [Stub.execute, Stub.wire?_eq h, h, hstatus, hbusy, hfetch, hopc]

theorem Stub.execute_nothing (hfetch : bufferOfOpcode c c.opcPageToBuf opc = none)
    (hprogram : bufferOfOpcode c c.opcBufToPage opc = none) (herase : opc ≠ c.opcBlockErase) : k.execute c = k := by
  simp [Stub.execute, Stub.wire?_eq h, h, hstatus, hbusy, hfetch, hprogram, herase]

end

theorem Stub.answer_readArray_payload {j : Nat} (h : k.received = [c.opcReadArray] ++ wireBytes w ++ tail)
    (hstatus : c.opcReadArray ≠ c.opcStatusRead) (hbusy : k.busy = 0) (htail : tail.length = Config.nDummyRead + j)
    (hoffset : offsetField k.geom w < k.geom.pageByteSize) :
    k.answer c = some (k.array.read (k.readAddress w j)) := by
  have hlength : ([c.opcReadArray] ++ wireBytes w ++ tail).tail.length = 7 + j := by
    simp [htail, Config.nDummyRead]; omega
  simp at hlength
  simp [Stub.answer, h, Stub.wire?_eq h, hstatus, hbusy, hlength, hoffset]

end

/-! ## The frames of a fetch, a buffer write and a program on a chip that is not busy -/

section
variable {c : Config} (hc : c.opcodesDistinct = true) {k : Stub} (hbusy : k.busy = 0)
include hc hbusy

theorem Stub.frame_pageToBuf (p : Nat) : Stub.frame c (encode c k.geom (.pageToBufBuf0 p)) k
    = (k.fetch 0 (wireOfPage k.geom p)).withReceived [] := by
  obtain ⟨opc, hopc⟩ := WireOp.exists_opcode hc .pageToBuf0
  have hbytes : encode c k.geom (.pageToBufBuf0 p) = [opc] ++ wireBytes (wireOfPage k.geom p) := by
    rw [encode, hopc]; rfl
  have hstatus : opc ≠ c.opcStatusRead := WireOp.opcode_byte_ne hc (y := .statusRead) (by decide) hopc rfl
  have hexecute := Stub.execute_fetch (k := k.withReceived ([opc] ++ wireBytes (wireOfPage k.geom p))) (tail := [])
    (List.append_nil _).symm hstatus hbusy (bufferOfOpcode_zero hopc)
  rw [Stub.frame, hbytes, Stub.receive_header, Stub.unselect_of_execute hexecute]
  rfl

variable (hn : c.nBuffers = 2)
include hn

theorem Stub.frame_bufToPage (p : Nat) : Stub.frame c (encode c k.geom (.bufToPageBuf0 p)) k
    = (k.program 0 (wireOfPage k.geom p)).withReceived [] := by
  obtain ⟨opc, hopc⟩ := WireOp.exists_opcode hc .bufToPage0
  have hbytes : encode c k.geom (.bufToPageBuf0 p) = [opc] ++ wireBytes (wireOfPage k.geom p) := by
    rw [encode, hopc]; rfl
  have hstatus : opc ≠ c.opcStatusRead := WireOp.opcode_byte_ne hc (y := .statusRead) (by decide) hopc rfl
  have hexecute := Stub.execute_program (k := k.withReceived ([opc] ++ wireBytes (wireOfPage k.geom p))) (tail := [])
    (List.append_nil _).symm hstatus hbusy (bufferOfOpcode_pageToBuf_none hc hn hopc (by decide) (by decide))
    (bufferOfOpcode_zero hopc)
  rw [Stub.frame, hbytes, Stub.receive_header, Stub.unselect_of_execute hexecute]
  rfl

theorem Stub.frame_bufWrite {o : Nat} (ho : offsetField k.geom (wireOfBuffer k.geom o) = o) (hsize : o < k.geom.pageByteSize)
    (v : Byte) : Stub.frame c (encode c k.geom (.bufWriteBuf0 o [v])) k
      = (k.withBuffers (k.buffers.write (linearOf k.geom 0 o) (invert v))).withReceived [] := by
  obtain ⟨opc, hopc⟩ := WireOp.exists_opcode hc .bufWrite0
  have hbytes : encode c k.geom (.bufWriteBuf0 o [v]) = [opc] ++ wireBytes (wireOfBuffer k.geom o) ++ [invert v] := by
    rw [encode, hopc]; rfl
  have hstatus : opc ≠ c.opcStatusRead := WireOp.opcode_byte_ne hc (y := .statusRead) (by decide) hopc rfl
  have herase : opc ≠ c.opcBlockErase := WireOp.opcode_byte_ne hc (y := .blockErase) (by decide) hopc rfl
  obtain ⟨m, hm⟩ : ∃ m, m = k.buffers.write (linearOf k.geom 0 o) (invert v) := ⟨_, rfl⟩
  have hstore : (k.withReceived ([opc] ++ wireBytes (wireOfBuffer k.geom o))).receive c (invert v)
      = (k.withBuffers m).withReceived ([opc] ++ wireBytes (wireOfBuffer k.geom o) ++ [invert v]) := by
    rw [Stub.receive_payload (k := k.withReceived _) rfl hbusy (bufferOfOpcode_zero hopc) (lt_of_eq_of_lt ho hsize),
      Stub.withReceived_geom, ho, hm]
    rfl
  have hexecute := Stub.execute_nothing
    (k := (k.withBuffers m).withReceived ([opc] ++ wireBytes (wireOfBuffer k.geom o) ++ [invert v])) rfl hstatus hbusy
    (bufferOfOpcode_pageToBuf_none hc hn hopc (by decide) (by decide))
    (bufferOfOpcode_bufToPage_none hc hn hopc (by decide) (by decide)) herase
  rw [Stub.frame, hbytes, List.foldl_append, Stub.receive_header, List.foldl_cons, List.foldl_nil, hstore,
    Stub.unselect_of_execute hexecute, hm]
  rfl

/-- Past its header an array read is answered with the byte of its address (R192). -/
theorem Stub.answer_readArray {a : Addr} (hsize : offsetField k.geom (wireOfLinear k.geom a) < k.geom.pageByteSize) :
    ((encode c k.geom (.readArray a 0)).foldl (Stub.receive c) k.select).answer c
      = some (k.array.read (k.readAddress (wireOfLinear k.geom a) 0)) := by
  have hbytes : encode c k.geom (.readArray a 0)
      = [c.opcReadArray] ++ wireBytes (wireOfLinear k.geom a) ++ List.replicate Config.nDummyRead c.fillByte := by
    simp [encode, frameBytes, WireOp.opcode]
  have hstatus : c.opcReadArray ≠ c.opcStatusRead :=
    WireOp.opcode_byte_ne hc (x := .readArray) (y := .statusRead) (by decide) rfl rfl
  have hignored := Stub.receive_ignored (c := c)
    (k := k.withReceived ([c.opcReadArray] ++ wireBytes (wireOfLinear k.geom a))) (tail := []) (List.append_nil _).symm
    (bufferOfOpcode_bufWrite_none hc hn (op := .readArray) rfl (by decide) (by decide))
    (List.replicate Config.nDummyRead c.fillByte)
  rw [hbytes, List.foldl_append, Stub.receive_header, hignored]
  exact Stub.answer_readArray_payload (k := k.withReceived _) (j := 0) rfl hstatus hbusy rfl hsize

end

/-! ## The places of a page, in the array and in a buffer (R192) -/

section
variable {k : Stub} (hk : k.geom.legal = true)
include hk

/-- A page below `T` is not reduced, and the page field holds it (R25). -/
theorem Stub.page_wireOf {p o : Nat} (hp : p < k.geom.totalPages) (ho : o < 2 ^ k.geom.pageBitWidth) :
    k.page (wireOf k.geom p o) = p := by
  obtain ⟨-, -, hpages, -⟩ := (Geometry.legal_iff k.geom).1 hk
  rw [← two_pow_fields hk, Nat.mul_comm] at hpages
  have hfits : p < 2 ^ (24 - k.geom.pageBitWidth) :=
    lt_of_lt_of_le hp (Nat.le_of_mul_le_mul_left hpages (Nat.two_pow_pos _))
  rw [Stub.page, pageField_wireOf hk ho, Nat.mod_eq_of_lt hfits, Nat.mod_eq_of_lt hp]

/-- The payload of an array read begins with the byte at its address. -/
theorem Stub.readAddress_wireOfLinear {a : Addr} (ha : a.toNat < k.geom.totalPages * k.geom.pageByteSize) :
    k.readAddress (wireOfLinear k.geom a) 0 = a.toNat := by
  have hoffset : offsetField k.geom (wireOfLinear k.geom a) = offsetOf k.geom a.toNat :=
    offsetField_wireOf hk (offsetOf_lt_field hk _) _
  have hpage : k.page (wireOfLinear k.geom a) = pageOf k.geom a.toNat :=
    Stub.page_wireOf hk (pageOf_lt_totalPages ha) (offsetOf_lt_field hk _)
  rw [Stub.readAddress, hoffset, hpage, linearOf_pageOf_offsetOf, Nat.add_zero, capacity, Nat.mod_eq_of_lt ha]

/-- A fetch copies the page into the buffer. -/
theorem Stub.fetch_buffers_read (hwf : k.buffers.wf = true) {p : Nat} (hp : p < k.geom.totalPages) {j : Nat}
    (hj : j < k.geom.pageByteSize) :
    (k.fetch 0 (wireOfPage k.geom p)).buffers.read (linearOf k.geom 0 j) = k.array.read (linearOf k.geom p j) := by
  have hpage : k.page (wireOfPage k.geom p) = p := Stub.page_wireOf hk hp (Nat.two_pow_pos _)
  rw [Stub.fetch, Memory.read_fill hwf, if_pos (by simp [linearOf, hj]), hpage]
  simp [linearOf]

/-- A program copies the buffer into the page, and leaves the bytes of the other pages. -/
theorem Stub.program_array_read (hwf : k.array.wf = true) {p : Nat} (hp : p < k.geom.totalPages) (b : Nat) :
    (k.program 0 (wireOfPage k.geom p)).array.read b
      = if pageOf k.geom b = p then k.buffers.read (linearOf k.geom 0 (offsetOf k.geom b)) else k.array.read b := by
  have hpage : k.page (wireOfPage k.geom p) = p := Stub.page_wireOf hk hp (Nat.two_pow_pos _)
  have hsize : offsetOf k.geom b < k.geom.pageByteSize := offsetOf_lt_size hk b
  have hb : pageOf k.geom b * k.geom.pageByteSize + offsetOf k.geom b = b := linearOf_pageOf_offsetOf k.geom b
  rw [Stub.program, Memory.read_fill hwf, hpage]
  by_cases h : pageOf k.geom b = p
  · subst h
    rw [if_pos rfl, if_pos (by rw [linearOf]; omega)]
    congr 2
    rw [linearOf]
    omega
  · rw [if_neg h, if_neg]
    rintro ⟨hfrom, hto⟩
    rw [linearOf, Nat.add_zero] at hfrom hto
    exact h (Nat.div_eq_of_lt_le hfrom (by rwa [Nat.succ_mul]))

end

/-! ## Fetch, write, program, read back -/

section
variable {c : Config} (hc : c.opcodesDistinct = true) {k k' : Stub} (hk : k.geom.legal = true)
include hc hk

theorem Stub.fetched (hwf : k.buffers.wf = true) {p : Nat} (hp : p < k.geom.totalPages)
    (h : k' = Stub.frame c (encode c k.geom (.pageToBufBuf0 p)) k.settled) :
    k'.geom = k.geom ∧ k'.array = k.array ∧ k'.buffers.wf = true
      ∧ ∀ j, j < k.geom.pageByteSize → k'.buffers.read (linearOf k.geom 0 j) = k.array.read (linearOf k.geom p j) := by
  obtain rfl := h.trans (Stub.frame_pageToBuf (k := k.settled) hc rfl p)
  exact ⟨rfl, rfl, Memory.fill_wf hwf .., fun j hj => Stub.fetch_buffers_read (k := k.settled) hk hwf hp hj⟩

variable (hn : c.nBuffers = 2)
include hn

theorem Stub.written (hwf : k.buffers.wf = true) {o : Nat} (ho : o < k.geom.pageByteSize) {v : Byte}
    (h : k' = Stub.frame c (encode c k.geom (.bufWriteBuf0 o [v])) k.settled) :
    k'.geom = k.geom ∧ k'.array = k.array ∧ ∀ j, k'.buffers.read (linearOf k.geom 0 j)
      = if o = j then invert v else k.buffers.read (linearOf k.geom 0 j) := by
  have hoffset : offsetField k.geom (wireOfBuffer k.geom o) = o := offsetField_wireOf hk (lt_field_of_lt_size hk ho) 0
  obtain rfl := h.trans (Stub.frame_bufWrite (k := k.settled) hc rfl hn hoffset ho v)
  refine ⟨rfl, rfl, fun j => (Memory.read_write hwf ..).trans ?_⟩
  simp [linearOf, Stub.settled]

theorem Stub.programmed (hwf : k.array.wf = true) {p : Nat} (hp : p < k.geom.totalPages)
    (h : k' = Stub.frame c (encode c k.geom (.bufToPageBuf0 p)) k.settled) :
    k'.geom = k.geom ∧ ∀ b, k'.array.read b
      = if pageOf k.geom b = p then k.buffers.read (linearOf k.geom 0 (offsetOf k.geom b)) else k.array.read b := by
  obtain rfl := h.trans (Stub.frame_bufToPage (k := k.settled) hc rfl hn p)
  exact ⟨rfl, Stub.program_array_read (k := k.settled) hk hwf hp⟩

theorem Stub.readBack {a : Addr} (ha : a.toNat < k.geom.totalPages * k.geom.pageByteSize)
    (h : k' = (encode c k.geom (.readArray a 0)).foldl (Stub.receive c) k.settled.select) :
    k'.answer c = some (k.array.read a.toNat) := by
  have hoffset : offsetField k.geom (wireOfLinear k.geom a) = offsetOf k.geom a.toNat :=
    offsetField_wireOf hk (offsetOf_lt_field hk _) _
  have hanswer := Stub.answer_readArray (k := k.settled) hc rfl hn (lt_of_eq_of_lt hoffset (offsetOf_lt_size hk _))
  rw [Stub.readAddress_wireOfLinear (k := k.settled) hk ha] at hanswer
  exact h ▸ hanswer

end

/-- An address is its page and its offset. -/
theorem eq_iff_pageOf_offsetOf (g : Geometry) (a b : Nat) :
    b = a ↔ pageOf g b = pageOf g a ∧ offsetOf g a = offsetOf g b := by
  constructor
  · rintro rfl
    exact ⟨rfl, rfl⟩
  · rintro ⟨hpage, hoffset⟩
    rw [← linearOf_pageOf_offsetOf g b, hpage, ← hoffset, linearOf_pageOf_offsetOf]

/-- Settles O51: the fetch copies the page, the write changes one byte of the copy, the program copies it back. -/
theorem writeThenReadBackOnTheStub : Obligations.WriteThenReadBackOnTheStub := by
  intro c k k1 k2 k3 k4 a v _ hc hn hk hwfArray hwfBuffers ha h1 h2 h3 h4
  have hp := pageOf_lt_totalPages ha
  have ho := offsetOf_lt_size hk a.toNat
  obtain ⟨hg1, harray1, hwf1, hcopy⟩ := Stub.fetched hc hk hwfBuffers hp h1
  rw [← hg1] at h2
  obtain ⟨hg2, harray2, hwrite⟩ := Stub.written hc (hg1 ▸ hk) hn hwf1 (hg1 ▸ ho) h2
  rw [hg1] at hg2 hwrite
  rw [← hg2] at h3
  obtain ⟨hg3, hprogram⟩ := Stub.programmed hc (hg2 ▸ hk) hn (by rw [harray2, harray1]; exact hwfArray) (hg2 ▸ hp) h3
  rw [hg2] at hg3 hprogram
  rw [← hg3] at h4
  have hanswer := Stub.readBack hc (hg3 ▸ hk) hn (hg3 ▸ ha) h4
  have hread : ∀ b, k3.array.read b = if b = a.toNat then invert v else k.array.read b := by
    intro b
    have hb := hcopy (offsetOf k.geom b) (offsetOf_lt_size hk b)
    simp only [hprogram, hwrite, hb, harray2, harray1, eq_iff_pageOf_offsetOf k.geom a.toNat b]
    by_cases hpage : pageOf k.geom b = pageOf k.geom a.toNat
    · simp [← hpage]
    · simp [hpage]
  exact ⟨fun b _ => hread b, by rw [hanswer, hread, if_pos rfl], invert_invert v⟩

end Sys2Proof.Machine
end

section
/-!
PROOFS of the statements about fixed states, the default parameters and single operations: the reset state (R39), the five
constraints of a table (R25), the page sizes (R121), the inversion (R62), `LINEAROF` (R113), words of the opcode table (log 12).
-/

namespace Sys2Proof.Machine

/-! ## The reset state (R39, R230) -/

/-- Settles O1: the registers of `State.reset` as they are written. -/
theorem resetLeavesIdleUncommitted : Obligations.ResetLeavesIdleUncommitted :=
  ⟨rfl, rfl, rfl, rfl, rfl, rfl, rfl, rfl⟩

theorem reset_legal : State.reset.cfg.legal = true := by decide

/-- Settles O2: nothing has crossed the bus, no command is in flight, and there is no stub. -/
theorem resetMeetsTheInvariants : Obligations.ResetMeetsTheInvariants :=
  ⟨⟨rfl, rfl⟩, coherent_of_reset rfl rfl rfl, readyBeforeBody_of_idle rfl, nofun, reset_legal⟩

/-! ## The parameters (R24, R25, R121) -/

/-- The rows of the default table are legal, as those of any legal parameters. -/
theorem defaultTable_legal {g : Geometry} (hg : g ∈ Geometry.defaultTable) : g.legal = true :=
  Config.row_legal reset_legal hg

/-- Settles O5: the five constraints are what `Geometry.legal` asks, and legal parameters have legal rows only. -/
theorem illegalTablesAreRefused : Obligations.IllegalTablesAreRefused := by
  refine ⟨fun g hg => (Geometry.legal_iff g).1 (defaultTable_legal hg), fun s g hg hbad => step_illegal ?_⟩
  rw [Bool.eq_false_iff]
  exact fun hl => hbad ((Geometry.legal_iff g).1 (Config.row_legal hl hg))

/-- Settles O13: 3 divides every page size of the table, and no power of two. -/
theorem pageSizeIsNoPowerOfTwo : Obligations.PageSizeIsNoPowerOfTwo := by
  refine ⟨rfl, rfl, fun g hg n h => ?_⟩
  have hthree : ∀ g ∈ Geometry.defaultTable, 3 ∣ g.pageByteSize := by decide
  have hdvd : 3 ∣ 2 := Nat.prime_three.dvd_of_dvd_pow (h ▸ hthree g hg)
  exact absurd hdvd (by decide)

/-! ## Single operations -/

/-- Settles O17: the complement of a byte is its distance to 255. -/
theorem inversionIsItsOwnInverse : Obligations.InversionIsItsOwnInverse :=
  fun b => ⟨BitVec.toNat_not, invert_invert b⟩

/-- Settles O8: the admission cases of R110 with `p * S + o` as the value. -/
theorem linearOfMultipliesAndAdds : Obligations.LinearOfMultipliesAndAdds := by
  intro p o s
  rw [exec_linearof]
  exact ⟨answerTranslation_ended _, fun he hv => answerTranslation_uncommitted he hv _, answerTranslation_committed _⟩

/-- Settles O28: the decoder evaluated on each of the nine words. -/
theorem tableWordsDecodeToTheirRows : Obligations.TableWordsDecodeToTheirRows := by
  unfold Obligations.TableWordsDecodeToTheirRows
  decide

end Sys2Proof.Machine
end
